-- ==== Sys2Proof/Word.lean ====
section
/-! DEFINITION. The word and field types of MUBN-CORE: 00_scope.md R5, 30_encoding.md R46, 20_memory.md R32. -/

namespace Sys2Proof

/-- The 16-bit word: one OM word, one host transfer, one command register (R5). -/
abbrev Word := BitVec 16

/-- A 64-bit command `{CMD3, CMD2, CMD1, CMD0}` (R17, R45). -/
abbrev Cmd := BitVec 64

/-- A 10-bit operand base address field: DST, SRCA or SRCB (R46, R50). -/
abbrev OmAddr := BitVec 10

/-- The 6-bit wordlength field N (R46, R51). -/
abbrev WordLen := BitVec 6

/-- A 12-bit host word address `h_addr` (R30, R32). -/
abbrev HostAddr := BitVec 12

end Sys2Proof
end

