-- ==== Sys2Proof/Config.lean ====
section
/-! DEFINITION. What a build fixes (00_scope.md R6) and the values the spec leaves open
(93_implementation_defined.md items 1, 2, 4). -/

namespace Sys2Proof

/-- The two open parameters of R6. They are no state (R26); the model carries them beside it (log 4). -/
structure Params where
  /-- `OM_WORDS`, the operand memory's size in words, 1 to 1024. -/
  omWords : Nat
  /-- `NMAX`, the largest wordlength a command accepts, 1 to 63. -/
  nmax : Nat
deriving DecidableEq, Repr

namespace Config

/-- The values R6 gives the parameters: 1024 words and `NMAX = 32`. -/
def specParams : Params := { omWords := 1024, nmax := 32 }

/-- The ranges R6 gives the parameters. -/
abbrev paramsInRange (p : Params) : Prop :=
  (1 ≤ p.omWords ∧ p.omWords ≤ 1024) ∧ (1 ≤ p.nmax ∧ p.nmax ≤ 63)

/-- FREE VALUE. The word at an operand address that nothing has written since power-up: any value,
fixed until written (R27, 93 item 1; log 2). -/
opaque powerUpWord : Nat → Word

/-- FREE VALUE. The `k`-th word drawn for a destination word of a command that reset aborted:
any value (R97, 93 item 2; log 3). -/
opaque freeWord : Nat → Word

/-- FREE VALUE. `LATENCY(command, operands) - 1`: how many steps BUSY lasts before the step that
completes the command (R104, R105, 93 item 4; log 5). -/
opaque latencyBefore : Cmd → List Word → Nat

/-- `LATENCY(command, operands)`, a positive integer (R105). -/
def latency (c : Cmd) (operands : List Word) : Nat := latencyBefore c operands + 1

end Config

end Sys2Proof
end

