-- ==== Sys2Proof/Machine/Errors.lean ====
section
/-! DEFINITION. The result codes of command submission: 60_exceptions.md R83, 10_state.md R22. -/

namespace Sys2Proof

/-- The codes `STATUS.ERR` can hold. Codes 5 to 15 are never produced (R22, R83), so they have no name. -/
inductive ErrCode where
  /-- 0: accepted, and completed or running. -/
  | ok
  /-- 1, ERR_OPC: the operation is reserved (R53). -/
  | opc
  /-- 2, ERR_FIELD: a bit outside the command's used fields is 1 (R54). -/
  | field
  /-- 3, ERR_LEN: N is 0 or above `NMAX` (R51). -/
  | len
  /-- 4, ERR_RANGE: an operand range leaves OM (R85). -/
  | range
deriving DecidableEq, Repr

/-- The code's number, as STATUS bits 7:4 show it (R83). -/
def ErrCode.bits : ErrCode → BitVec 4
  | .ok => 0
  | .opc => 1
  | .field => 2
  | .len => 3
  | .range => 4

end Sys2Proof
end

