-- ==== Sys2Proof/Syntax.lean ====
section
/-! DEFINITION. The ten commands of MUBN-CORE: 30_encoding.md R47, R48, with the operand order of R56. -/

namespace Sys2Proof

/-- One constructor per row of the opcode table. A field a command does not use (R48) is no argument:
it is encoded as zero (R56). `d` is DST, `a` and `g` are SRCA, `b` and `e` are SRCB, `n` is N. -/
inductive Instr where
  /-- `ADDW d, a, b, cin` (R60). -/
  | addw (d a b : OmAddr) (cin : Bool)
  /-- `SUBW d, a, b, cin` (R61). -/
  | subw (d a b : OmAddr) (cin : Bool)
  /-- `ADDMP d, a, b, n` (R63). -/
  | addmp (d a b : OmAddr) (n : WordLen)
  /-- `SUBMP d, a, b, n` (R64). -/
  | submp (d a b : OmAddr) (n : WordLen)
  /-- `MULMP d, a, b, n` (R65). -/
  | mulmp (d a b : OmAddr) (n : WordLen)
  /-- `CMPMP a, b, n` (R67). -/
  | cmpmp (a b : OmAddr) (n : WordLen)
  /-- `RED192 d, a` (R73). -/
  | red192 (d a : OmAddr)
  /-- `MULP192 d, a, b` (R74). -/
  | mulp192 (d a b : OmAddr)
  /-- `EXPW d, g, e` (R79). -/
  | expw (d g e : OmAddr)
  /-- `EXPMP d, g, e, n` (R80). -/
  | expmp (d g e : OmAddr) (n : WordLen)
deriving DecidableEq, Repr

end Sys2Proof
end

