-- ==== Sys2Proof/Machine/Operands.lean ====
section
/-! DEFINITION. Operand forms and the operand checks: lengths (30_encoding.md R49), base plus index
addressing (20_memory.md R37), the length check (R51) and the range check (60_exceptions.md R85). -/

namespace Sys2Proof

/-- `FIELD_WORDS`, the length of a P-192 element in words (R6). -/
def fieldWords : Nat := 12

/-- `PROD_WORDS`, the length of a double-width product in words (R6). -/
def prodWords : Nat := 24

/-- An operand: `len` consecutive OM words from `base` (R37). -/
structure OmRange where
  base : Nat
  len : Nat
deriving DecidableEq, Repr

/-- The range check of one operand: `f + len ≤ OM_WORDS` (R85). -/
def OmRange.fits (r : OmRange) (omWords : Nat) : Bool := decide (r.base + r.len ≤ omWords)

/-- Operand address `a` is one of the operand's words. -/
abbrev OmRange.covers (r : OmRange) (a : Nat) : Prop := r.base ≤ a ∧ a < r.base + r.len

/-- The destination operand (R49); CMPMP has none. -/
def Instr.dstRange : Instr → Option OmRange
  | .addw d _ _ _ => some ⟨d.toNat, 1⟩
  | .subw d _ _ _ => some ⟨d.toNat, 1⟩
  | .addmp d _ _ n => some ⟨d.toNat, n.toNat⟩
  | .submp d _ _ n => some ⟨d.toNat, n.toNat⟩
  | .mulmp d _ _ n => some ⟨d.toNat, 2 * n.toNat⟩
  | .cmpmp _ _ _ => none
  | .red192 d _ => some ⟨d.toNat, fieldWords⟩
  | .mulp192 d _ _ => some ⟨d.toNat, fieldWords⟩
  | .expw d _ _ => some ⟨d.toNat, fieldWords⟩
  | .expmp d _ _ _ => some ⟨d.toNat, fieldWords⟩

/-- The first source operand (R49). -/
def Instr.srcARange : Instr → OmRange
  | .addw _ a _ _ => ⟨a.toNat, 1⟩
  | .subw _ a _ _ => ⟨a.toNat, 1⟩
  | .addmp _ a _ n => ⟨a.toNat, n.toNat⟩
  | .submp _ a _ n => ⟨a.toNat, n.toNat⟩
  | .mulmp _ a _ n => ⟨a.toNat, n.toNat⟩
  | .cmpmp a _ n => ⟨a.toNat, n.toNat⟩
  | .red192 _ a => ⟨a.toNat, prodWords⟩
  | .mulp192 _ a _ => ⟨a.toNat, fieldWords⟩
  | .expw _ g _ => ⟨g.toNat, fieldWords⟩
  | .expmp _ g _ _ => ⟨g.toNat, fieldWords⟩

/-- The second source operand (R49); RED192 has none. -/
def Instr.srcBRange : Instr → Option OmRange
  | .addw _ _ b _ => some ⟨b.toNat, 1⟩
  | .subw _ _ b _ => some ⟨b.toNat, 1⟩
  | .addmp _ _ b n => some ⟨b.toNat, n.toNat⟩
  | .submp _ _ b n => some ⟨b.toNat, n.toNat⟩
  | .mulmp _ _ b n => some ⟨b.toNat, n.toNat⟩
  | .cmpmp _ b n => some ⟨b.toNat, n.toNat⟩
  | .red192 _ _ => none
  | .mulp192 _ _ b => some ⟨b.toNat, fieldWords⟩
  | .expw _ _ e => some ⟨e.toNat, 1⟩
  | .expmp _ _ e n => some ⟨e.toNat, n.toNat⟩

/-- The source operands, SRCA first. -/
def Instr.sources (i : Instr) : List OmRange := i.srcARange :: i.srcBRange.toList

/-- Every operand the command uses (R85). -/
def Instr.operands (i : Instr) : List OmRange := i.dstRange.toList ++ i.sources

/-- The wordlength of a command that uses N (R51). -/
def Instr.wordlen : Instr → Option Nat
  | .addw _ _ _ _ => none
  | .subw _ _ _ _ => none
  | .addmp _ _ _ n => some n.toNat
  | .submp _ _ _ n => some n.toNat
  | .mulmp _ _ _ n => some n.toNat
  | .cmpmp _ _ n => some n.toNat
  | .red192 _ _ => none
  | .mulp192 _ _ _ => none
  | .expw _ _ _ => none
  | .expmp _ _ _ n => some n.toNat

/-- Check 3 of R84 passes: N is unused, or 1 to `NMAX`. -/
def Instr.lenOk (p : Params) (i : Instr) : Bool := i.wordlen.all fun n => decide (1 ≤ n ∧ n ≤ p.nmax)

/-- Check 4 of R84 passes: every operand lies in OM. -/
def Instr.rangesOk (p : Params) (i : Instr) : Bool := i.operands.all fun r => r.fits p.omWords

/-- Checks 3 and 4 of R84, in that order: the code of the first that fails. -/
def Instr.check (p : Params) (i : Instr) : ErrCode :=
  if i.lenOk p = false then .len
  else if i.rangesOk p = false then .range
  else .ok

end Sys2Proof
end

