-- ==== Sys2Proof/WellFormed.lean ====
section
/-! DEFINITION. A command the engine accepts once it is decoded: 60_exceptions.md R84 checks 3 and 4.
(Checks 1 and 2 cannot fail for an `Instr`: it has only the ten operations and the fields they use.) -/

namespace Sys2Proof

/-- The command's wordlength is legal (R51) and each of its operands lies in OM (R85). -/
def Instr.wf (p : Params) (i : Instr) : Bool := i.lenOk p && i.rangesOk p

end Sys2Proof
end

