-- ==== Sys2Proof/Decode.lean ====
section
/-! DEFINITION. The decoder and the encoder of commands (30_encoding.md R45 to R55), the
pseudo-instructions (R57) and the assembler's spelling (R56). -/

namespace Sys2Proof

/-- The operations of R47. -/
inductive Opcode where
  | addw | subw | addmp | submp | mulmp | cmpmp | red192 | mulp192 | expw | expmp
deriving DecidableEq, Repr

/-- The OPC value of an operation (R47). -/
def Opcode.code : Opcode → BitVec 5
  | .addw => 0x01
  | .subw => 0x02
  | .addmp => 0x03
  | .submp => 0x04
  | .mulmp => 0x05
  | .cmpmp => 0x06
  | .red192 => 0x07
  | .mulp192 => 0x08
  | .expw => 0x09
  | .expmp => 0x0A

/-- The bits of a command that its row fixes (R55, column mask). -/
def Opcode.mask : Opcode → Cmd
  | .addw => 0xFFFFFFC0000000DF
  | .subw => 0xFFFFFFC0000000DF
  | .addmp => 0xFFFFF000000000FF
  | .submp => 0xFFFFF000000000FF
  | .mulmp => 0xFFFFF000000000FF
  | .cmpmp => 0xFFFFF0000003FFFF
  | .red192 => 0xFFFFFFFFF00000FF
  | .mulp192 => 0xFFFFFFC0000000FF
  | .expw => 0xFFFFFFC0000000FF
  | .expmp => 0xFFFFF000000000FF

/-- What the fixed bits are (R55, column match): the OPC value, every other fixed bit 0. -/
def Opcode.pattern (op : Opcode) : Cmd := op.code.setWidth 64

/-- Every operation of R47. -/
def Opcode.all : List Opcode :=
  [.addw, .subw, .addmp, .submp, .mulmp, .cmpmp, .red192, .mulp192, .expw, .expmp]

/-- The operation an OPC value selects; none for a reserved value (R47, R53). -/
def Opcode.ofCode (c : BitVec 5) : Option Opcode := Opcode.all.find? fun op => op.code == c

/-- OPC, bits 4:0 (R46). -/
def cmdOpc (c : Cmd) : BitVec 5 := c.extractLsb' 0 5

/-- CIN, bit 5 (R46, R52). -/
def cmdCin (c : Cmd) : Bool := c.getLsbD 5

/-- DST, bits 17:8 (R46). -/
def cmdDst (c : Cmd) : OmAddr := c.extractLsb' 8 10

/-- SRCA, bits 27:18 (R46). -/
def cmdSrcA (c : Cmd) : OmAddr := c.extractLsb' 18 10

/-- SRCB, bits 37:28 (R46). -/
def cmdSrcB (c : Cmd) : OmAddr := c.extractLsb' 28 10

/-- N, bits 43:38 (R46). -/
def cmdN (c : Cmd) : WordLen := c.extractLsb' 38 6

/-- The fields each operation uses (R48), taken from the command. -/
def Opcode.fields (op : Opcode) (c : Cmd) : Instr :=
  match op with
  | .addw => .addw (cmdDst c) (cmdSrcA c) (cmdSrcB c) (cmdCin c)
  | .subw => .subw (cmdDst c) (cmdSrcA c) (cmdSrcB c) (cmdCin c)
  | .addmp => .addmp (cmdDst c) (cmdSrcA c) (cmdSrcB c) (cmdN c)
  | .submp => .submp (cmdDst c) (cmdSrcA c) (cmdSrcB c) (cmdN c)
  | .mulmp => .mulmp (cmdDst c) (cmdSrcA c) (cmdSrcB c) (cmdN c)
  | .cmpmp => .cmpmp (cmdSrcA c) (cmdSrcB c) (cmdN c)
  | .red192 => .red192 (cmdDst c) (cmdSrcA c)
  | .mulp192 => .mulp192 (cmdDst c) (cmdSrcA c) (cmdSrcB c)
  | .expw => .expw (cmdDst c) (cmdSrcA c) (cmdSrcB c)
  | .expmp => .expmp (cmdDst c) (cmdSrcA c) (cmdSrcB c) (cmdN c)

/-- Checks 1 and 2 of R84: OPC alone selects the operation (ERR_OPC, R53); then every bit outside its
fields must be 0 (ERR_FIELD, R54). -/
def decode (c : Cmd) : Except ErrCode Instr :=
  match Opcode.ofCode (cmdOpc c) with
  | none => .error .opc
  | some op => if c &&& op.mask = op.pattern then .ok (op.fields c) else .error .field

/-- The operation of an instruction. -/
def Instr.opcode : Instr → Opcode
  | .addw _ _ _ _ => .addw
  | .subw _ _ _ _ => .subw
  | .addmp _ _ _ _ => .addmp
  | .submp _ _ _ _ => .submp
  | .mulmp _ _ _ _ => .mulmp
  | .cmpmp _ _ _ => .cmpmp
  | .red192 _ _ => .red192
  | .mulp192 _ _ _ => .mulp192
  | .expw _ _ _ => .expw
  | .expmp _ _ _ _ => .expmp

/-- The encoding formula of R46: `OPC | CIN<<5 | DST<<8 | SRCA<<18 | SRCB<<28 | N<<38`. -/
def packFields (op : Opcode) (cin : Bool) (d a b : OmAddr) (n : WordLen) : Cmd :=
  op.code.setWidth 64 ||| ((BitVec.ofBool cin).setWidth 64 <<< 5) ||| (d.setWidth 64 <<< 8)
    ||| (a.setWidth 64 <<< 18) ||| (b.setWidth 64 <<< 28) ||| (n.setWidth 64 <<< 38)

/-- The 64-bit command of an instruction; fields it does not use are zero (R46, R48, R56). -/
def encode (i : Instr) : Cmd :=
  match i with
  | .addw d a b cin => packFields .addw cin d a b 0
  | .subw d a b cin => packFields .subw cin d a b 0
  | .addmp d a b n => packFields .addmp false d a b n
  | .submp d a b n => packFields .submp false d a b n
  | .mulmp d a b n => packFields .mulmp false d a b n
  | .cmpmp a b n => packFields .cmpmp false 0 a b n
  | .red192 d a => packFields .red192 false d a 0 0
  | .mulp192 d a b => packFields .mulp192 false d a b 0
  | .expw d g e => packFields .expw false d g e 0
  | .expmp d g e n => packFields .expmp false d g e n

/-- Half `k` of a command: CMD0 holds bits 15:0 and CMD3 bits 63:48 (R17, R45). -/
def cmdHalf (c : Cmd) (k : Nat) : Word := c.extractLsb' (16 * k) 16

/-- The command `{CMD3, CMD2, CMD1, CMD0}` that four command registers hold (R17, R45). -/
def cmdOfHalves (w0 w1 w2 w3 : Word) : Cmd :=
  w0.setWidth 64 ||| (w1.setWidth 64 <<< 16) ||| (w2.setWidth 64 <<< 32) ||| (w3.setWidth 64 <<< 48)

/-- The words of an instruction as the host writes them, CMD0 first (R58). -/
def encodeHalves (i : Instr) : List Word :=
  [cmdHalf (encode i) 0, cmdHalf (encode i) 1, cmdHalf (encode i) 2, cmdHalf (encode i) 3]

/-- The instruction the decoder reads from a word numbered as the opcode table numbers it. Every row
has 64 bits, the command itself: its first half is CMD0, bits 15:0. -/
def decodeTableWord (nbits w : Nat) : Option Instr :=
  match decode (BitVec.ofNat 64 (w % 2 ^ nbits)) with
  | .ok i => some i
  | .error _ => none

/-- The pseudo-instructions of R57. -/
inductive Pseudo where
  /-- `ADDW d, a, b`. -/
  | addw3 (d a b : OmAddr)
  /-- `SUBW d, a, b`. -/
  | subw3 (d a b : OmAddr)
  /-- `ADCW d, a, b`. -/
  | adcw (d a b : OmAddr)
  /-- `SBBW d, a, b`. -/
  | sbbw (d a b : OmAddr)
  /-- `SQRMP d, a, n`. -/
  | sqrmp (d a : OmAddr) (n : WordLen)
  /-- `SQRP192 d, a`. -/
  | sqrp192 (d a : OmAddr)
deriving DecidableEq, Repr

/-- Their exact expansions (R57). -/
def Pseudo.expand : Pseudo → Instr
  | .addw3 d a b => .addw d a b false
  | .subw3 d a b => .subw d a b false
  | .adcw d a b => .addw d a b true
  | .sbbw d a b => .subw d a b true
  | .sqrmp d a n => .mulmp d a a n
  | .sqrp192 d a => .mulp192 d a a

/-- Operands as an assembly line lists them: decimal, separated by commas (R56). -/
def asmOperands (xs : List Nat) : String := String.intercalate ", " (xs.map fun x => toString x)

/-- The assembly line of a command (R56). -/
def Instr.asm : Instr → String
  | .addw d a b cin => "ADDW " ++ asmOperands [d.toNat, a.toNat, b.toNat, cin.toNat]
  | .subw d a b cin => "SUBW " ++ asmOperands [d.toNat, a.toNat, b.toNat, cin.toNat]
  | .addmp d a b n => "ADDMP " ++ asmOperands [d.toNat, a.toNat, b.toNat, n.toNat]
  | .submp d a b n => "SUBMP " ++ asmOperands [d.toNat, a.toNat, b.toNat, n.toNat]
  | .mulmp d a b n => "MULMP " ++ asmOperands [d.toNat, a.toNat, b.toNat, n.toNat]
  | .cmpmp a b n => "CMPMP " ++ asmOperands [a.toNat, b.toNat, n.toNat]
  | .red192 d a => "RED192 " ++ asmOperands [d.toNat, a.toNat]
  | .mulp192 d a b => "MULP192 " ++ asmOperands [d.toNat, a.toNat, b.toNat]
  | .expw d g e => "EXPW " ++ asmOperands [d.toNat, g.toNat, e.toNat]
  | .expmp d g e n => "EXPMP " ++ asmOperands [d.toNat, g.toNat, e.toNat, n.toNat]

end Sys2Proof
end

