-- ==== Sys2Proof/Machine/State.lean ====
section
/-! DEFINITION. The machine's state as plain data (10_state.md), why a step can stop, and the state
after reset (R27). -/

namespace Sys2Proof.Machine

/-- The operand memory: the words written since power-up, by operand address (R28, R29). The unit is
the 16-bit word, because no byte exists (R34; log 1). An address not listed has not been written:
it has no value here, and a read of it takes the free value `Config.powerUpWord` (log 2). -/
abbrev Memory := List (Nat × Word)

/-- The canonical form: addresses strictly rising, so each address is listed at most once. -/
abbrev Memory.wf (m : Memory) : Prop := m.Pairwise fun x y => x.1 < y.1

/-- The engine's two architectural states (R16). -/
inductive EngineState where
  | idle
  | busy
deriving DecidableEq, Repr

/-- The exponentiation controller's states (R25, R77). -/
inductive ExpPhase where
  | init
  | square
  | multiply
  | done
deriving DecidableEq, Repr

/-- The exponentiation controller (R25, R77), with the counts of R81. -/
structure Controller where
  phase : ExpPhase
  /-- `t`, the index of the exponent's most significant set bit. -/
  top : Nat
  /-- `i`, the current bit index. -/
  idx : Nat
  /-- `A`, the 12-word accumulator. -/
  acc : BitVec 192
  /-- How many squarings since INIT (R81). -/
  squarings : Nat
  /-- How many multiplications by the base since INIT (R81). -/
  multiplications : Nat
deriving DecidableEq, Repr

/-- What the host side of the port does next (R30, R31, R96). -/
inductive HostAction where
  /-- `HostWrite(haddr, v16)` (R31). -/
  | write (h : HostAddr) (v : Word)
  /-- `HostRead(haddr)` (R31). -/
  | read (h : HostAddr)
  /-- Time passes with no transfer requested, `h_sel = 0` (R30). -/
  | wait
  /-- `rst = 1` at a clock edge (R96). -/
  | reset
deriving DecidableEq, Repr

/-- The machine's state. `params`, `host`, `draws` and the two counts in `ctrl` are the model's own
fields; every other one is the spec's (INVENTORY.md, State). -/
structure State where
  /-- The build's parameters (R6; log 4). -/
  params : Params
  /-- The operand memory (R28). -/
  om : Memory
  /-- CMD0 to CMD3 (R17). -/
  cmd0 : Word
  cmd1 : Word
  cmd2 : Word
  cmd3 : Word
  /-- IDLE or BUSY (R16); STATUS.BUSY (R19). -/
  engine : EngineState
  /-- STATUS.CARRY (R20). -/
  carry : Bool
  /-- STATUS.GE (R21). -/
  ge : Bool
  /-- STATUS.ERR (R22). -/
  err : ErrCode
  /-- The command latch (R23). -/
  latch : Cmd
  /-- How many steps BUSY still lasts before the step that completes the command (R105; log 5). -/
  cyclesLeft : Nat
  /-- The exponentiation controller (R25). -/
  ctrl : Controller
  /-- The host's pending actions, oldest first (R41; log 6). -/
  host : List HostAction
  /-- `h_ready`: a transfer completed in the last step (R30). -/
  hReady : Bool
  /-- `h_rdata`, valid only where a read completed in the last step (R30; log 8). -/
  hRdata : Option Word
  /-- How many free words have been drawn (R97; log 3). -/
  draws : Nat
deriving DecidableEq, Repr

/-- The faults that stop the machine: there are none. The hardware raises no exception and takes no
trap (R82, R90), and every rejection is a next state (R87). Safe: no step stops. -/
inductive Fault
deriving DecidableEq, Repr

/-- The refusals. -/
inductive Refusal where
  /-- An instruction without a meaning, refused in `exec`'s arm. No arm raises it: all ten commands
  have their meaning. Safe. -/
  | notModelled (mnemonic : String)
deriving DecidableEq, Repr

/-- The outcome of one step of this machine. -/
abbrev StepOutcome := Host.Outcome State Fault Refusal

/-- The controller after reset: unspecified and unobservable (R27), named values (log 7). -/
def Controller.reset : Controller :=
  { phase := .init, top := 0, idx := 0, acc := 0, squarings := 0, multiplications := 0 }

/-- The machine right after reset (R27), with the parameter values of R6, nothing written to OM, and
no host action pending (log 2, log 4, log 6, log 7). -/
def State.reset : State :=
  { params := Config.specParams
    om := []
    cmd0 := 0
    cmd1 := 0
    cmd2 := 0
    cmd3 := 0
    engine := .idle
    carry := false
    ge := false
    err := .ok
    latch := 0
    cyclesLeft := 0
    ctrl := Controller.reset
    host := []
    hReady := false
    hRdata := none
    draws := 0 }

end Sys2Proof.Machine
end

