-- ==== Sys2Proof/Machine/Ops.lean ====
section
/-! DEFINITION. The named operations over memory and registers: BigNum values (00_scope.md R7, R11),
OM accesses (20_memory.md R36, R37), the STATUS register (10_state.md R18), completion (60_exceptions.md
R88) and rejection (R87), the machine's one form of taking an exception. -/

namespace Sys2Proof.Machine

/-- `Val(w)`: the integer that words hold, least significant word first (R7). -/
def wordsVal : List Word → Nat
  | [] => 0
  | w :: ws => w.toNat + 2 ^ 16 * wordsVal ws

/-- The `n` words of `v mod 2^(16n)`, least significant first (R11, `MemWrite`). -/
def wordsOf : Nat → Nat → List Word
  | 0, _ => []
  | n + 1, v => BitVec.ofNat 16 v :: wordsOf n (v / 2 ^ 16)

/-- What has been written to an address, if anything has. -/
def Memory.get? : Memory → Nat → Option Word
  | [], _ => none
  | (b, w) :: m, a => if b = a then some w else Memory.get? m a

/-- Replace one word (R29), keeping the addresses rising. -/
def Memory.set : Memory → Nat → Word → Memory
  | [], a, v => [(a, v)]
  | (b, w) :: m, a, v =>
    if a < b then (a, v) :: (b, w) :: m
    else if a = b then (a, v) :: m
    else (b, w) :: Memory.set m a v

/-- Replace consecutive words from `base` up. -/
def Memory.setWords : Memory → Nat → List Word → Memory
  | m, _, [] => m
  | m, base, w :: ws => Memory.setWords (Memory.set m base w) (base + 1) ws

/-- `OM[a]`: the last word written there (R29, R41), or the power-up value (R27; log 2). -/
def Memory.word (m : Memory) (a : Nat) : Word := (Memory.get? m a).getD (Config.powerUpWord a)

/-- `OM[base], …, OM[base+n-1]`. -/
def Memory.words (m : Memory) (base n : Nat) : List Word := (List.range n).map fun k => m.word (base + k)

/-- `OM[a]` of the state. -/
def State.omWord (s : State) (a : Nat) : Word := s.om.word a

/-- The words of an operand (R37). -/
def State.omWords (s : State) (base n : Nat) : List Word := s.om.words base n

/-- `MemRead(base, n)` (R11). -/
def State.memRead (s : State) (base n : Nat) : Nat := wordsVal (s.omWords base n)

/-- `MemWrite(base, n, v)` (R11). -/
def State.memWrite (s : State) (base n v : Nat) : State :=
  { s with om := s.om.setWords base (wordsOf n v) }

/-- `STATUS.CARRY <- v` (R20). -/
def State.withCarry (s : State) (v : Bool) : State := { s with carry := v }

/-- `STATUS.GE <- v` (R21). -/
def State.withGe (s : State) (v : Bool) : State := { s with ge := v }

/-- The exponentiation controller's new state (R77). -/
def State.withCtrl (s : State) (c : Controller) : State := { s with ctrl := c }

/-- The port between transfers: `h_ready = 0` and no valid `h_rdata` (R30). -/
def State.quiet (s : State) : State := { s with hReady := false, hRdata := none }

/-- STATUS.BUSY, and the `busy` pin that copies it (R16, R19, R30). -/
def State.busyBit (s : State) : Bool :=
  match s.engine with
  | .idle => false
  | .busy => true

/-- STATUS as the host reads it: bit 0 BUSY, 1 CARRY, 2 GE, 7:4 ERR, the others 0 (R18). -/
def State.statusWord (s : State) : Word :=
  (BitVec.ofBool s.busyBit).setWidth 16 ||| ((BitVec.ofBool s.carry).setWidth 16 <<< 1)
    ||| ((BitVec.ofBool s.ge).setWidth 16 <<< 2) ||| (s.err.bits.setWidth 16 <<< 4)

/-- `CMD = {CMD3, CMD2, CMD1, CMD0}` (R17). -/
def State.cmd (s : State) : Cmd := cmdOfHalves s.cmd0 s.cmd1 s.cmd2 s.cmd3

/-- Taking an error: `STATUS.ERR <- code`, the engine is (or stays) idle, nothing else changes (R87). -/
def State.reject (s : State) (code : ErrCode) : State := { s with err := code, engine := .idle }

/-- Completion: `STATUS.ERR` is 0 and `STATUS.BUSY <- 0` (R88). -/
def State.complete (s : State) : State := { s with err := .ok, engine := .idle }

/-- A decoded command from check 3 on: the first failing check rejects it (R84, R87), otherwise its
effect happens and it completes (R88). For a command that was accepted at its submission the checks
pass again, since they look at the command alone (log 10). -/
def runCommand (i : Instr) (s : State) (effect : State → State) : StepOutcome :=
  match i.check s.params with
  | .ok => .next (effect s).complete
  | code => .next (s.reject code)

end Sys2Proof.Machine
end

