-- ==== Sys2Proof/Machine/Field.lean ====
section
/-! DEFINITION. The P-192 field: the modulus (00_scope.md R9), the reduction engine's internal functions
(42_p192_field.md R69 to R72), RED192 (R73) and MULP192 (R74). -/

namespace Sys2Proof.Machine

/-- `p = 2^192 - 2^64 - 1` (R9). -/
def p192 : Nat := 0xFFFFFFFFFFFFFFFFFFFFFFFFFFFFFFFEFFFFFFFFFFFFFFFF

/-- `AddModP(x, y)`, the generic modular adder for `x` and `y` below `p` (R69). -/
def addModP (x y : Nat) : Nat :=
  let s := x + y
  if 2 ^ 192 ≤ s then (s % 2 ^ 192 + 2 ^ 192 - p192) % 2 ^ 192
  else if p192 ≤ s then s - p192
  else s

/-- The 64-bit block `C_j` of a 24-word input (R70). -/
def block (c j : Nat) : Nat := (c >>> (64 * j)) % 2 ^ 64

/-- Three blocks, least significant first, as one 12-word value (R70). -/
def slice3 (x y z : Nat) : Nat := x + y * 2 ^ 64 + z * 2 ^ 128

/-- Slice `T = C0, C1, C2` (R70). -/
def sliceT (c : Nat) : Nat := slice3 (block c 0) (block c 1) (block c 2)

/-- Slice `S1 = C3, C3, 0` (R70). -/
def sliceS1 (c : Nat) : Nat := slice3 (block c 3) (block c 3) 0

/-- Slice `S2 = 0, C4, C4` (R70). -/
def sliceS2 (c : Nat) : Nat := slice3 0 (block c 4) (block c 4)

/-- Slice `S3 = C5, C5, C5` (R70). -/
def sliceS3 (c : Nat) : Nat := slice3 (block c 5) (block c 5) (block c 5)

/-- A slice reduced once before the modular additions (R71; conflict C4). -/
def preReduce (x : Nat) : Nat := if p192 ≤ x then x - p192 else x

/-- `RedP(c)` of a 24-word value (R72). -/
def redP (c : Nat) : Nat :=
  addModP (addModP (addModP (preReduce (sliceT c)) (preReduce (sliceS1 c))) (preReduce (sliceS2 c)))
    (preReduce (sliceS3 c))

/-- `MulP(x, y) = RedP(x * y)` (R74). -/
def mulP (x y : Nat) : Nat := redP (x * y)

/-- `RED192 d, a` (R73). -/
def execRed192 (d a : OmAddr) (s : State) : StepOutcome :=
  runCommand (.red192 d a) s fun s =>
    s.memWrite d.toNat fieldWords (redP (s.memRead a.toNat prodWords))

/-- `MULP192 d, a, b` (R74). -/
def execMulp192 (d a b : OmAddr) (s : State) : StepOutcome :=
  runCommand (.mulp192 d a b) s fun s =>
    s.memWrite d.toNat fieldWords (mulP (s.memRead a.toNat fieldWords) (s.memRead b.toNat fieldWords))

end Sys2Proof.Machine
end

