-- ==== Sys2Proof/Machine/ModExp.lean ====
section
/-! DEFINITION. The left-to-right binary exponentiation controller: its bit functions (43_modexp.md R75,
R76), its states (R77), EXPW (R79) and EXPMP (R80). -/

namespace Sys2Proof.Machine

/-- `IthBit(w, i)` (R75). -/
def ithBit (w : Word) (i : Nat) : Bool := w.getLsbD i

/-- `MpIthBit(E, i)`: bit `i mod 16` of word `i / 16` (R75). -/
def mpIthBit (e : List Word) (i : Nat) : Bool := ithBit (e.getD (i / 16) 0) (i % 16)

/-- The highest set bit among the `k` lowest bits of a word. -/
def topBitBelow (w : Word) : Nat → Option Nat
  | 0 => none
  | k + 1 => if w.getLsbD k then some k else topBitBelow w k

/-- `BitLen(w)`: the index of the most significant set bit; none for the zero word, to which the
hardware never applies it (R76; log 14). -/
def bitLen (w : Word) : Option Nat := topBitBelow w 16

/-- `MpBitLen(E)`: `16*j + BitLen(e_j)` for the most significant nonzero word `e_j` (R76). -/
def mpBitLen : List Word → Option Nat
  | [] => none
  | w :: ws =>
    match mpBitLen ws with
    | some t => some (16 + t)
    | none => bitLen w

/-- The transition NEXT (R77). -/
def Controller.advance (c : Controller) : Controller :=
  if c.idx = 0 then { c with phase := .done }
  else { c with phase := .square, idx := c.idx - 1 }

/-- One transition of the controller (R77), for the base `g`, the exponent's top bit (none for a zero
exponent) and its bits. -/
def Controller.step (g : Nat) (top : Option Nat) (bit : Nat → Bool) (c : Controller) : Controller :=
  match c.phase with
  | .init =>
    match top with
    | none => { c with phase := .done, acc := 1, squarings := 0, multiplications := 0 }
    | some t => { phase := .square, top := t, idx := t, acc := 1, squarings := 0, multiplications := 0 }
  | .square =>
    let c' := { c with
      acc := BitVec.ofNat 192 (mulP c.acc.toNat c.acc.toNat), squarings := c.squarings + 1 }
    if bit c.idx then { c' with phase := .multiply } else c'.advance
  | .multiply =>
    Controller.advance { c with
      acc := BitVec.ofNat 192 (mulP c.acc.toNat g), multiplications := c.multiplications + 1 }
  | .done => c

/-- Transitions until DONE, at most `k`. -/
def Controller.run (g : Nat) (top : Option Nat) (bit : Nat → Bool) : Nat → Controller → Controller
  | 0, c => c
  | k + 1, c =>
    if c.phase = .done then c else Controller.run g top bit k (Controller.step g top bit c)

/-- The controller from INIT to DONE for an exponent of `n` words: INIT, and a squaring and at most one
multiplication for each of at most `16n` bits (R77, R81). -/
def runExp (g n : Nat) (top : Option Nat) (bit : Nat → Bool) (c : Controller) : Controller :=
  Controller.run g top bit (32 * n + 1) { c with phase := .init }

/-- The controller of EXPW: the single-word bit functions (R79). -/
def expwCtrl (g : Nat) (e : Word) (c : Controller) : Controller :=
  runExp g 1 (bitLen e) (ithBit e) c

/-- The controller of EXPMP: the multiword bit functions (R80). -/
def expmpCtrl (g : Nat) (e : List Word) (c : Controller) : Controller :=
  runExp g e.length (mpBitLen e) (mpIthBit e) c

/-- `EXPW d, g, e` (R79). -/
def execExpw (d g e : OmAddr) (s : State) : StepOutcome :=
  runCommand (.expw d g e) s fun s =>
    let c := expwCtrl (s.memRead g.toNat fieldWords) (s.omWord e.toNat) s.ctrl
    (s.withCtrl c).memWrite d.toNat fieldWords c.acc.toNat

/-- `EXPMP d, g, e, n` (R80). -/
def execExpmp (d g e : OmAddr) (n : WordLen) (s : State) : StepOutcome :=
  runCommand (.expmp d g e n) s fun s =>
    let c := expmpCtrl (s.memRead g.toNat fieldWords) (s.omWords e.toNat n.toNat) s.ctrl
    (s.withCtrl c).memWrite d.toNat fieldWords c.acc.toNat

end Sys2Proof.Machine
end

