-- ==== Sys2Proof/Machine/Flags.lean ====
section
/-! DEFINITION. Flag computations and the word functions that give them: the carry and borrow of
40_word_arithmetic.md R59 to R61, their chains (41_multiprecision.md R62), the closed forms of R63 and
R64, and the comparator's scan (R67). -/

namespace Sys2Proof.Machine

/-- A carry or borrow bit, widened to the 17 bits of the intermediate. -/
def carryBit (cin : Bool) : BitVec 17 := (BitVec.ofBool cin).setWidth 17

/-- `add_word` on a 17-bit intermediate: the sum's low word, and bit 16 as the carry (R59, R60). -/
def addWord (x y : Word) (cin : Bool) : Word × Bool :=
  let s : BitVec 17 := x.setWidth 17 + y.setWidth 17 + carryBit cin
  (s.setWidth 16, s.getLsbD 16)

/-- `subtract_word`: the subtrahend `t = y + borrow-in` is 17 bits wide, the borrow is `x < t` (R59, R61). -/
def subWord (x y : Word) (bin : Bool) : Word × Bool :=
  let t : BitVec 17 := y.setWidth 17 + carryBit bin
  ((x.setWidth 17 - t).setWidth 16, decide (x.setWidth 17 < t))

/-- A word function chained from word 0 upward, each carry out the next carry in (R62). -/
def chainWords (f : Word → Word → Bool → Word × Bool) : List Word → List Word → Bool → List Word × Bool
  | a :: as, b :: bs, k =>
    let r := f a b k
    let rest := chainWords f as bs r.2
    (r.1 :: rest.1, rest.2)
  | _, _, k => ([], k)

/-- The final carry of an `n`-word addition of the values `a` and `b` (R63). -/
def addCarry (n a b : Nat) : Bool := decide (2 ^ (16 * n) ≤ a + b)

/-- The final borrow of a subtraction of the values `a` and `b` (R64). -/
def subBorrow (a b : Nat) : Bool := decide (a < b)

/-- The value of an `n`-word difference, `(A - B) mod 2^(16n)` (R64). -/
def subValue (n a b : Nat) : Nat := (((a : Int) - (b : Int)) % ((2 : Int) ^ (16 * n))).toNat

/-- The comparator's scan over words given most significant first: the first differing word decides,
and equal arrays compare true (R67). -/
def scanGe : List Word → List Word → Bool
  | a :: as, b :: bs => if a = b then scanGe as bs else decide (b < a)
  | _, _ => true

/-- `compare_mp` of two operands, words least significant first: from word N-1 down (R67). -/
def compareWords (a b : List Word) : Bool := scanGe a.reverse b.reverse

end Sys2Proof.Machine
end

