-- ==== Sys2Proof/Machine/MultiPrec.lean ====
section
/-! DEFINITION. ADDMP, SUBMP, MULMP and CMPMP: 41_multiprecision.md R63, R64, R65, R67, with the
schoolbook datapath (R65, R66) that the exact product stands for (log 13). -/

namespace Sys2Proof.Machine

/-- `ADDMP d, a, b, n` (R63). -/
def execAddmp (d a b : OmAddr) (n : WordLen) (s : State) : StepOutcome :=
  runCommand (.addmp d a b n) s fun s =>
    let x := s.memRead a.toNat n.toNat
    let y := s.memRead b.toNat n.toNat
    (s.memWrite d.toNat n.toNat (x + y)).withCarry (addCarry n.toNat x y)

/-- `SUBMP d, a, b, n` (R64). -/
def execSubmp (d a b : OmAddr) (n : WordLen) (s : State) : StepOutcome :=
  runCommand (.submp d a b n) s fun s =>
    let x := s.memRead a.toNat n.toNat
    let y := s.memRead b.toNat n.toNat
    (s.memWrite d.toNat n.toNat (subValue n.toNat x y)).withCarry (subBorrow x y)

/-- `MULMP d, a, b, n`: the exact product, 2N words (R65). -/
def execMulmp (d a b : OmAddr) (n : WordLen) (s : State) : StepOutcome :=
  runCommand (.mulmp d a b n) s fun s =>
    s.memWrite d.toNat (2 * n.toNat) (s.memRead a.toNat n.toNat * s.memRead b.toNat n.toNat)

/-- `CMPMP a, b, n`: GE by the scan from the most significant word down; no word is written (R67). -/
def execCmpmp (a b : OmAddr) (n : WordLen) (s : State) : StepOutcome :=
  runCommand (.cmpmp a b n) s fun s =>
    s.withGe (compareWords (s.omWords a.toNat n.toNat) (s.omWords b.toNat n.toNat))

/-- The single-word multiply: the exact 32-bit product (R66). -/
def mul16 (x y : Word) : BitVec 32 := x.setWidth 32 * y.setWidth 32

/-- The inner loop of R65 for one word `x` of A: over the words of B, with the column words `P[i..]`
and the carry word `k`; after the last word of B, `P[i+N] <- k`. -/
def schoolbookRow (x : Word) : List Word → List Word → Word → List Word
  | [], p, k => k :: p.tail
  | y :: ys, p, k =>
    let t : BitVec 32 := (p.headD 0).setWidth 32 + mul16 x y + k.setWidth 32
    t.setWidth 16 :: schoolbookRow x ys p.tail (t.extractLsb' 16 16)

/-- The outer loop of R65 over the words of A, on the columns that are left. -/
def schoolbookLoop : List Word → List Word → List Word → List Word
  | [], _, p => p
  | x :: xs, b, p =>
    let q := schoolbookRow x b p 0
    q.headD 0 :: schoolbookLoop xs b q.tail

/-- The schoolbook product of two operands in an accumulator of zeros (R65). -/
def schoolbook (a b : List Word) : List Word :=
  schoolbookLoop a b (List.replicate (a.length + b.length) 0)

end Sys2Proof.Machine
end

