-- ==== Sys2Proof/Machine/WordArith.lean ====
section
/-! DEFINITION. ADDW and SUBW: 40_word_arithmetic.md R60, R61. -/

namespace Sys2Proof.Machine

/-- `ADDW d, a, b, cin` (R60). -/
def execAddw (d a b : OmAddr) (cin : Bool) (s : State) : StepOutcome :=
  runCommand (.addw d a b cin) s fun s =>
    let r := addWord (s.omWord a.toNat) (s.omWord b.toNat) cin
    (s.memWrite d.toNat 1 r.1.toNat).withCarry r.2

/-- `SUBW d, a, b, cin` (R61). -/
def execSubw (d a b : OmAddr) (cin : Bool) (s : State) : StepOutcome :=
  runCommand (.subw d a b cin) s fun s =>
    let r := subWord (s.omWord a.toNat) (s.omWord b.toNat) cin
    (s.memWrite d.toNat 1 r.1.toNat).withCarry r.2

end Sys2Proof.Machine
end

