-- ==== Sys2Proof/Machine/Dispatch.lean ====
section
/-! DEFINITION. The meaning of each command, one arm per row of the opcode table (30_encoding.md R47). -/

namespace Sys2Proof.Machine

def exec (i : Instr) (s : State) : Host.Outcome State Fault Refusal :=
  match i with
  | .addw d a b cin => Sys2Proof.Machine.execAddw d a b cin s
  | .subw d a b cin => Sys2Proof.Machine.execSubw d a b cin s
  | .addmp d a b n => Sys2Proof.Machine.execAddmp d a b n s
  | .submp d a b n => Sys2Proof.Machine.execSubmp d a b n s
  | .mulmp d a b n => Sys2Proof.Machine.execMulmp d a b n s
  | .cmpmp a b n => Sys2Proof.Machine.execCmpmp a b n s
  | .red192 d a => Sys2Proof.Machine.execRed192 d a s
  | .mulp192 d a b => Sys2Proof.Machine.execMulp192 d a b s
  | .expw d g e => Sys2Proof.Machine.execExpw d g e s
  | .expmp d g e n => Sys2Proof.Machine.execExpmp d g e n s

end Sys2Proof.Machine
end

