-- ==== Sys2Proof/Machine/HostPort.lean ====
section
/-! DEFINITION. The host port: the address map and transfers (20_memory.md R31 to R33), submission
(60_exceptions.md R84), the hold while BUSY (R40), and the host-program forms LOAD and ISSUE (R58). -/

namespace Sys2Proof.Machine

/-- What a host address names (R32). -/
inductive HostTarget where
  | om (a : Nat)
  | cmd0
  | cmd1
  | cmd2
  | cmd3
  | status
  | unmapped
deriving DecidableEq, Repr

/-- The host address map (R32). -/
def hostTarget (p : Params) (h : HostAddr) : HostTarget :=
  if h.toNat < p.omWords then .om h.toNat
  else if h.toNat = 0x800 then .cmd0
  else if h.toNat = 0x801 then .cmd1
  else if h.toNat = 0x802 then .cmd2
  else if h.toNat = 0x803 then .cmd3
  else if h.toNat = 0x804 then .status
  else .unmapped

/-- The word a host read returns (R31 to R33). -/
def State.hostRead (s : State) (h : HostAddr) : Word :=
  match hostTarget s.params h with
  | .om a => s.omWord a
  | .cmd0 => s.cmd0
  | .cmd1 => s.cmd1
  | .cmd2 => s.cmd2
  | .cmd3 => s.cmd3
  | .status => s.statusWord
  | .unmapped => 0

/-- The four checks of R84 in order: the command, or the code of the first check that fails. -/
def submitCheck (p : Params) (c : Cmd) : Except ErrCode Instr :=
  match decode c with
  | .error code => .error code
  | .ok i =>
    match i.check p with
    | .ok => .ok i
    | code => .error code

/-- The words of a command's source operands, as read in phase 1 (R36). -/
def State.operandWords (s : State) (i : Instr) : List Word :=
  i.sources.flatMap fun r => s.omWords r.base r.len

/-- Acceptance: latch the command, `STATUS.ERR <- 0`, `STATUS.BUSY <- 1` (R23, R84), for
`LATENCY(command, operands)` steps (R105; log 5). -/
def State.accept (s : State) (i : Instr) : State :=
  { s with
    latch := s.cmd
    err := .ok
    engine := .busy
    cyclesLeft := Config.latency s.cmd (s.operandWords i) - 1 }

/-- Submission of `{CMD3, CMD2, CMD1, CMD0}` (R84): rejected (R87) or accepted. -/
def State.submit (s : State) : State :=
  match submitCheck s.params s.cmd with
  | .error code => s.reject code
  | .ok i => s.accept i

/-- A completed host write (R17, R31 to R33): a word of OM, a command register (CMD3 submits), and
nothing at STATUS or an unmapped address. -/
def State.hostWrite (s : State) (h : HostAddr) (v : Word) : State :=
  match hostTarget s.params h with
  | .om a => { s with om := s.om.set a v }
  | .cmd0 => { s with cmd0 := v }
  | .cmd1 => { s with cmd1 := v }
  | .cmd2 => { s with cmd2 := v }
  | .cmd3 => State.submit { s with cmd3 := v }
  | .status => s
  | .unmapped => s

/-- A read completes with the word `v`: `h_ready = 1` and `h_rdata = v` (R30). -/
def State.readDone (s : State) (v : Word) (rest : List HostAction) : State :=
  { s with hReady := true, hRdata := some v, host := rest }

/-- The oldest host action is done without a transfer. -/
def State.dropAction (s : State) (rest : List HostAction) : State := { s.quiet with host := rest }

/-- A step while IDLE: the oldest host action takes effect (R31, R41); with none, nothing happens
(R98). `reset` is `State.resetStep`'s. -/
def State.idleStep (s : State) : State :=
  match s.host with
  | [] => s.quiet
  | .wait :: rest => s.dropAction rest
  | .read h :: rest => s.readDone (s.hostRead h) rest
  | .write h v :: rest => State.hostWrite { s with hReady := true, hRdata := none, host := rest } h v
  | .reset :: _ => s.quiet

/-- One cycle of the running command has passed (R105). -/
def State.tick (s : State) : State := { s with cyclesLeft := s.cyclesLeft - 1 }

/-- A step while BUSY that does not complete the command: a STATUS read completes at once and shows
BUSY, a wait passes, every other transfer is held (R40). -/
def State.busyStep (s : State) : State :=
  match s.host with
  | .read h :: rest =>
    if hostTarget s.params h = .status then s.tick.readDone s.statusWord rest else s.tick.quiet
  | .wait :: rest => s.tick.dropAction rest
  | _ => s.tick.quiet

/-- `LOAD a, {w0, w1, …}` (R58). DESIGN CHOICE (log 16): the 12-bit host address wraps, so a list that runs
past 0xFFF goes on at 0x000. -/
def hostLoad : HostAddr → List Word → List HostAction
  | _, [] => []
  | a, w :: ws => .write a w :: hostLoad (a + 1) ws

/-- `ISSUE <command>`, and `ISSUE raw v`: four host writes, CMD0 first (R58). -/
def hostIssue (c : Cmd) : List HostAction :=
  [.write 0x800 (cmdHalf c 0), .write 0x801 (cmdHalf c 1),
   .write 0x802 (cmdHalf c 2), .write 0x803 (cmdHalf c 3)]

end Sys2Proof.Machine
end

