-- ==== Sys2Proof/Machine/Reset.lean ====
section
/-! DEFINITION. The `rst` input: 70_reset_and_hazards.md R96, R97, with the values of 10_state.md R27. -/

namespace Sys2Proof.Machine

/-- The destination operand of the latched command; none where it has none. -/
def State.latchedDst (s : State) : Option OmRange :=
  match decode s.latch with
  | .ok i => i.dstRange
  | .error _ => none

/-- The destination words of an aborted command hold unspecified values: a free word each (R97; log 3).
Every other OM word keeps its value. -/
def State.abortWrites (s : State) : State :=
  match s.engine, s.latchedDst with
  | .busy, some r =>
    { s with
      om := s.om.setWords r.base ((List.range r.len).map fun k => Config.freeWord (s.draws + k))
      draws := s.draws + r.len }
  | _, _ => s

/-- The state takes the values of R27; OM keeps its words (R29). The latch and the controller are
unspecified and unobservable: named values (log 7). -/
def State.clear (s : State) : State :=
  { s with
    cmd0 := 0
    cmd1 := 0
    cmd2 := 0
    cmd3 := 0
    engine := .idle
    carry := false
    ge := false
    err := .ok
    latch := 0
    cyclesLeft := 0
    ctrl := Controller.reset
    hReady := false
    hRdata := none }

/-- A step at which `rst = 1` (R96): no transfer completes, a running command is abandoned (R97). -/
def State.resetStep (s : State) : State := { s.abortWrites.clear with host := s.host.tail }

end Sys2Proof.Machine
end

