-- ==== Sys2Proof/Machine/Engine.lean ====
section
/-! DEFINITION. What the next step is (10_state.md R15, R16; 20_memory.md R40, R41; log 5, log 6). -/

namespace Sys2Proof.Machine

/-- The kinds of step. -/
inductive StepKind where
  /-- `rst = 1` (R96). -/
  | reset
  /-- The engine is idle: a host action takes effect. -/
  | host
  /-- A cycle of the running command that does not complete it. -/
  | busy
  /-- The cycle that completes the running command (R88). -/
  | complete
deriving DecidableEq, Repr

/-- Reset comes first (R96); then, while BUSY, the command's remaining cycles; then the host (R40). -/
def State.stepKind (s : State) : StepKind :=
  match s.host with
  | .reset :: _ => .reset
  | _ =>
    match s.engine with
    | .idle => .host
    | .busy => if s.cyclesLeft = 0 then .complete else .busy

/-- The state in which the next step runs the command `c`: as its four words and its acceptance leave
it (R17, R84), in its last cycle (R105), no host action pending (log 12). -/
def State.withRunning (s : State) (c : Cmd) : State :=
  { s with
    cmd0 := cmdHalf c 0
    cmd1 := cmdHalf c 1
    cmd2 := cmdHalf c 2
    cmd3 := cmdHalf c 3
    latch := c
    err := .ok
    engine := .busy
    cyclesLeft := 0
    host := [] }

end Sys2Proof.Machine
end

