-- ==== Sys2Proof/Machine/Step.lean ====
section
/-! DEFINITION. One step of the machine, and how a command is put where the next step runs it. -/

namespace Sys2Proof.Machine

/-- One step: a reset, a host action, a cycle of the running command, or the cycle that completes it,
which decodes the latched command and runs its meaning. A latch that decodes to no command is never
accepted (R84); its code is reported (log 11). -/
def step (s : State) : Host.Outcome State Fault Refusal :=
  match s.stepKind with
  | .reset => .next s.resetStep
  | .host => .next s.idleStep
  | .busy => .next s.busyStep
  | .complete =>
    match decode s.latch with
    | .ok i => exec i s.quiet
    | .error code => .next (s.quiet.reject code)

/-- The command of `nbits` bits `w`, put where the next step runs it (log 12). -/
def State.withFetchWord (s : State) (nbits w : Nat) : State :=
  s.withRunning (BitVec.ofNat 64 (w % 2 ^ nbits))

end Sys2Proof.Machine
end

