-- ==== Sys2Proof/Safety.lean ====
section
/-! DEFINITION. What counts as a safe state and a safe step, in the terms the statements use: the
invariant of every step, and what a command leaves unchanged. -/

namespace Sys2Proof.Machine

/-- The invariant: the parameters lie in their ranges (R6); OM is canonical and lists only addresses
that exist (R28); while BUSY, the latch is the command of the command registers (R17, R23), ERR is 0
(R19) and the command passed every check (R16, R84); `h_rdata` is valid only where a transfer
completed (R30). -/
abbrev State.Inv (s : State) : Prop :=
  Config.paramsInRange s.params
    ∧ s.om.wf
    ∧ (∀ x ∈ s.om, x.1 < s.params.omWords)
    ∧ (s.engine = .busy → s.latch = s.cmd ∧ s.err = .ok ∧ (submitCheck s.params s.latch).isOk = true)
    ∧ (s.hRdata ≠ none → s.hReady = true)

/-- What no command touches: the command registers (R17), the latch (R23), the latency counter, and the
model's own fields. -/
abbrev SameControl (s t : State) : Prop :=
  t.cmd0 = s.cmd0 ∧ t.cmd1 = s.cmd1 ∧ t.cmd2 = s.cmd2 ∧ t.cmd3 = s.cmd3 ∧ t.latch = s.latch
    ∧ t.cyclesLeft = s.cyclesLeft ∧ t.params = s.params ∧ t.host = s.host ∧ t.hReady = s.hReady
    ∧ t.hRdata = s.hRdata ∧ t.draws = s.draws

/-- Every OM word outside an operand reads as before. -/
def OmSameOutside (r : OmRange) (s t : State) : Prop := ∀ a, ¬ r.covers a → t.omWord a = s.omWord a

/-- The command completed: idle, `ERR = 0` (R88). -/
abbrev Completed (t : State) : Prop := t.engine = .idle ∧ t.err = .ok

/-- `k` steps, stopping at the first fault or refusal. -/
def runSteps : Nat → State → StepOutcome
  | 0, s => .next s
  | k + 1, s =>
    match step s with
    | .next t => runSteps k t
    | .fault r => .fault r
    | .refused r => .refused r

/-- No reset is among the host's pending actions. -/
abbrev NoReset (s : State) : Prop := HostAction.reset ∉ s.host

end Sys2Proof.Machine
end

