-- ==== Sys2Proof/Certificates/Slice0/Obligations.lean ====
section
/-! DEFINITION. The statements for the provers. Each docstring names the rule of spec/ it formalises. -/

open Sys2Proof Sys2Proof.Machine

/-! ## Encoding -/

/-- R46 to R48: every command, with every field at every value, survives encoding and decoding. -/
def Obligations.DecodeOfEncode : Prop :=
  ∀ i : Instr, decode (encode i) = .ok i

/-- R45 to R48, R54: a 64-bit value that decodes has exactly one spelling, its command's encoding. -/
def Obligations.EncodeOfDecode : Prop :=
  ∀ (c : Cmd) (i : Instr), decode c = .ok i → encode i = c

/-- R53: a command whose OPC is 0x00 or 0x0B to 0x1F is rejected with ERR_OPC and changes nothing but ERR. -/
def Obligations.ReservedOpcodeRejected : Prop :=
  ∀ s : State, s.engine = .idle → ((s.cmd.toNat % 32 = 0) ∨ (0x0B ≤ s.cmd.toNat % 32)) →
    s.submit = { s with err := .opc }

/-- The bits R48 marks "0" for an operation, with the reserved bits 7:6 and 63:44, are all 0. -/
def UnusedBitsZero (op : Opcode) (c : Cmd) : Prop :=
  c.extractLsb' 6 2 = 0 ∧ c.extractLsb' 44 20 = 0
    ∧ (op ∉ [.addw, .subw] → c.getLsbD 5 = false)
    ∧ (op = .cmpmp → c.extractLsb' 8 10 = 0)
    ∧ (op = .red192 → c.extractLsb' 28 10 = 0)
    ∧ (op ∉ [.addmp, .submp, .mulmp, .cmpmp, .expmp] → c.extractLsb' 38 6 = 0)

/-- R54: with a legal OPC, ERR_FIELD iff some unused or reserved bit is 1, which is the mask test; and such a
command is rejected. -/
def Obligations.FieldCheckIsUnusedBits : Prop :=
  ∀ (op : Opcode) (c : Cmd), c.toNat % 32 = op.code.toNat →
    (∀ p : Params, (submitCheck p c = .error .field ↔ ¬ UnusedBitsZero op c)
        ∧ (submitCheck p c ≠ .error .field ↔ c &&& op.mask = op.pattern))
      ∧ ∀ s : State, s.engine = .idle → s.cmd = c → ¬ UnusedBitsZero op c → s.submit = { s with err := .field }

/-- Words of 95_test_vectors.md section 2.6 decode to the commands written beside them (R46, R55). -/
def Obligations.SpecWordsDecode : Prop :=
  decode 0x0000000110401221 = .ok (.addw 0x012 0x010 0x011 true)
    ∧ decode 0x0000030200010003 = .ok (.addmp 0x100 0x000 0x020 12)
    ∧ decode 0x00000300C0000006 = .ok (.cmpmp 0x000 0x00C 12)
    ∧ decode 0x0000000001006007 = .ok (.red192 0x060 0x040)
    ∧ decode 0x00000006C1808009 = .ok (.expw 0x080 0x060 0x06C)
    ∧ decode 0x00000FFFFFFFFF0A = .ok (.expmp 0x3FF 0x3FF 0x3FF 63)

/-- R45: bits 15:0 of the command come from CMD0, 31:16 from CMD1, 47:32 from CMD2, 63:48 from CMD3; and the
four halves of a 64-bit value make it up again. -/
def Obligations.CommandOfItsHalves : Prop :=
  (∀ w0 w1 w2 w3 : Word,
      (cmdOfHalves w0 w1 w2 w3).extractLsb' 0 16 = w0 ∧ (cmdOfHalves w0 w1 w2 w3).extractLsb' 16 16 = w1
        ∧ (cmdOfHalves w0 w1 w2 w3).extractLsb' 32 16 = w2 ∧ (cmdOfHalves w0 w1 w2 w3).extractLsb' 48 16 = w3)
    ∧ ∀ c : Cmd, cmdOfHalves (cmdHalf c 0) (cmdHalf c 1) (cmdHalf c 2) (cmdHalf c 3) = c

/-! ## Word arithmetic -/

/-- R60: ADDW completes, writes `(a + b + cin) mod 2^16`, and CARRY is 1 iff the true sum exceeds 0xFFFF. -/
def Obligations.AddwResult : Prop :=
  ∀ (d a b : OmAddr) (cin : Bool) (s : State),
    d.toNat < s.params.omWords → a.toNat < s.params.omWords → b.toNat < s.params.omWords →
    ∃ t, exec (.addw d a b cin) s = .next t
      ∧ (t.omWord d.toNat).toNat =
          ((s.omWord a.toNat).toNat + (s.omWord b.toNat).toNat + cin.toNat) % 2 ^ 16
      ∧ t.carry = decide (0xFFFF < (s.omWord a.toNat).toNat + (s.omWord b.toNat).toNat + cin.toNat)
      ∧ t.ge = s.ge ∧ Completed t

/-- R61: SUBW completes, writes `(a - b - cin) mod 2^16`, and CARRY is 1 iff `a < b + cin`. -/
def Obligations.SubwResult : Prop :=
  ∀ (d a b : OmAddr) (cin : Bool) (s : State),
    d.toNat < s.params.omWords → a.toNat < s.params.omWords → b.toNat < s.params.omWords →
    ∃ t, exec (.subw d a b cin) s = .next t
      ∧ ((t.omWord d.toNat).toNat : Int) =
          (((s.omWord a.toNat).toNat : Int) - (s.omWord b.toNat).toNat - cin.toNat) % 2 ^ 16
      ∧ t.carry = decide ((s.omWord a.toNat).toNat < (s.omWord b.toNat).toNat + cin.toNat)
      ∧ t.ge = s.ge ∧ Completed t

/-- R60, R61, R87: the frame of ADDW and SUBW, rejected or not: one word at DST, CARRY, ERR and BUSY. -/
def Obligations.WordCommandsFrame : Prop :=
  ∀ (d a b : OmAddr) (cin : Bool) (i : Instr) (s t : State),
    (i = .addw d a b cin ∨ i = .subw d a b cin) → exec i s = .next t →
    SameControl s t ∧ t.ge = s.ge ∧ t.ctrl = s.ctrl ∧ OmSameOutside ⟨d.toNat, 1⟩ s t

/-! ## Multiprecision arithmetic -/

/-- R63: ADDMP completes, writes `(A + B) mod 2^(16N)`, and CARRY is 1 iff `A + B ≥ 2^(16N)`. -/
def Obligations.AddmpResult : Prop :=
  ∀ (d a b : OmAddr) (n : WordLen) (s : State),
    1 ≤ n.toNat → n.toNat ≤ s.params.nmax →
    d.toNat + n.toNat ≤ s.params.omWords → a.toNat + n.toNat ≤ s.params.omWords →
    b.toNat + n.toNat ≤ s.params.omWords →
    ∃ t, exec (.addmp d a b n) s = .next t
      ∧ t.memRead d.toNat n.toNat =
          (s.memRead a.toNat n.toNat + s.memRead b.toNat n.toNat) % 2 ^ (16 * n.toNat)
      ∧ t.carry = decide (2 ^ (16 * n.toNat) ≤ s.memRead a.toNat n.toNat + s.memRead b.toNat n.toNat)
      ∧ t.ge = s.ge ∧ Completed t

/-- R64: SUBMP completes, writes `(A - B) mod 2^(16N)`, and CARRY is 1 iff `A < B`. -/
def Obligations.SubmpResult : Prop :=
  ∀ (d a b : OmAddr) (n : WordLen) (s : State),
    1 ≤ n.toNat → n.toNat ≤ s.params.nmax →
    d.toNat + n.toNat ≤ s.params.omWords → a.toNat + n.toNat ≤ s.params.omWords →
    b.toNat + n.toNat ≤ s.params.omWords →
    ∃ t, exec (.submp d a b n) s = .next t
      ∧ (t.memRead d.toNat n.toNat : Int) =
          ((s.memRead a.toNat n.toNat : Int) - s.memRead b.toNat n.toNat) % 2 ^ (16 * n.toNat)
      ∧ t.carry = decide (s.memRead a.toNat n.toNat < s.memRead b.toNat n.toNat)
      ∧ t.ge = s.ge ∧ Completed t

/-- R65: MULMP completes and writes the exact product to 2N words; no flag is written. -/
def Obligations.MulmpResult : Prop :=
  ∀ (d a b : OmAddr) (n : WordLen) (s : State),
    1 ≤ n.toNat → n.toNat ≤ s.params.nmax →
    d.toNat + 2 * n.toNat ≤ s.params.omWords → a.toNat + n.toNat ≤ s.params.omWords →
    b.toNat + n.toNat ≤ s.params.omWords →
    ∃ t, exec (.mulmp d a b n) s = .next t
      ∧ t.memRead d.toNat (2 * n.toNat) = s.memRead a.toNat n.toNat * s.memRead b.toNat n.toNat
      ∧ t.carry = s.carry ∧ t.ge = s.ge ∧ Completed t

/-- R67: CMPMP completes and GE is 1 iff `A ≥ B` as integers, which the word scan decides. -/
def Obligations.CmpmpResult : Prop :=
  ∀ (a b : OmAddr) (n : WordLen) (s : State),
    1 ≤ n.toNat → n.toNat ≤ s.params.nmax →
    a.toNat + n.toNat ≤ s.params.omWords → b.toNat + n.toNat ≤ s.params.omWords →
    ∃ t, exec (.cmpmp a b n) s = .next t
      ∧ t.ge = decide (s.memRead b.toNat n.toNat ≤ s.memRead a.toNat n.toNat)
      ∧ t.carry = s.carry ∧ Completed t

/-- R63 to R65, R87: the frame of ADDMP, SUBMP and MULMP, rejected or not: N words at DST (2N for MULMP),
CARRY (not for MULMP), ERR and BUSY. -/
def Obligations.MultiprecisionFrame : Prop :=
  ∀ (d a b : OmAddr) (n : WordLen) (s t : State),
    ((exec (.addmp d a b n) s = .next t ∨ exec (.submp d a b n) s = .next t) →
      SameControl s t ∧ t.ge = s.ge ∧ t.ctrl = s.ctrl ∧ OmSameOutside ⟨d.toNat, n.toNat⟩ s t)
    ∧ (exec (.mulmp d a b n) s = .next t →
      SameControl s t ∧ t.carry = s.carry ∧ t.ge = s.ge ∧ t.ctrl = s.ctrl
        ∧ OmSameOutside ⟨d.toNat, 2 * n.toNat⟩ s t)

/-- R67, R29, R87: the frame of CMPMP, rejected or not: GE, ERR and BUSY; every OM word reads as before. -/
def Obligations.CmpmpFrame : Prop :=
  ∀ (a b : OmAddr) (n : WordLen) (s t : State), exec (.cmpmp a b n) s = .next t →
    SameControl s t ∧ t.carry = s.carry ∧ t.ctrl = s.ctrl ∧ t.om = s.om
      ∧ ∀ x, t.omWord x = s.omWord x

/-- R62: the chained word functions give the closed forms of R63 and R64 for operands of any length. -/
def Obligations.WordChainsAreClosedForms : Prop :=
  ∀ x y : List Word, x.length = y.length →
    (wordsVal (chainWords addWord x y false).1 = (wordsVal x + wordsVal y) % 2 ^ (16 * x.length)
      ∧ (chainWords addWord x y false).2 = decide (2 ^ (16 * x.length) ≤ wordsVal x + wordsVal y))
    ∧ ((wordsVal (chainWords subWord x y false).1 : Int)
          = ((wordsVal x : Int) - wordsVal y) % 2 ^ (16 * x.length)
      ∧ (chainWords subWord x y false).2 = decide (wordsVal x < wordsVal y))

/-- R65: the schoolbook loop leaves the exact product of two N-word operands in 2N words. The exact loop shape
is the one R65 marks "from general knowledge, not in source" (notes/assumptions/13.md). -/
def Obligations.SchoolbookIsExactProduct : Prop :=
  ∀ x y : List Word, x.length = y.length →
    (schoolbook x y).length = 2 * x.length ∧ wordsVal (schoolbook x y) = wordsVal x * wordsVal y

/-- R66: `mul16` is the exact 32-bit product, at most 0xFFFE0001. -/
def Obligations.WordMultiplyExact : Prop :=
  ∀ x y : Word, (mul16 x y).toNat = x.toNat * y.toNat ∧ (mul16 x y).toNat ≤ 0xFFFE0001

/-! ## The P-192 field -/

/-- R9, R10: the modulus and its twelve words, and the congruence of its special form. -/
def Obligations.ModulusOfP192 : Prop :=
  p192 = 2 ^ 192 - 2 ^ 64 - 1
    ∧ wordsOf 12 p192 = [0xFFFF, 0xFFFF, 0xFFFF, 0xFFFF, 0xFFFE, 0xFFFF, 0xFFFF, 0xFFFF, 0xFFFF, 0xFFFF,
        0xFFFF, 0xFFFF]
    ∧ 2 ^ 192 % p192 = 2 ^ 64 + 1

/-- R69: for operands below `p`, the generic modular adder gives the least residue of the sum. -/
def Obligations.ModularAdder : Prop :=
  ∀ x y : Nat, x < p192 → y < p192 → addModP x y = (x + y) % p192 ∧ addModP x y < p192

/-- R70: the four slices of a 24-word value sum to it modulo `p`. -/
def Obligations.SlicesCongruent : Prop :=
  ∀ c : Nat, c < 2 ^ 384 → (sliceT c + sliceS1 c + sliceS2 c + sliceS3 c) % p192 = c % p192

/-- R71: each slice is below `2^192`, `S1` below `2^128`, and a slice reduced once lies in `[0, p)`. -/
def Obligations.SlicesReducedOnce : Prop :=
  ∀ c x : Nat, x ∈ [sliceT c, sliceS1 c, sliceS2 c, sliceS3 c] →
    x < 2 ^ 192 ∧ preReduce x < p192 ∧ preReduce x = x % p192 ∧ sliceS1 c < 2 ^ 128

/-- R72: the reduction engine returns `c mod p` for every 24-word `c`. -/
def Obligations.ReductionIsResidue : Prop :=
  ∀ c : Nat, c < 2 ^ 384 → redP c = c % p192 ∧ redP c < p192

/-- R73: RED192 completes and writes `c mod p`; no flag is written. -/
def Obligations.Red192Result : Prop :=
  ∀ (d a : OmAddr) (s : State),
    d.toNat + 12 ≤ s.params.omWords → a.toNat + 24 ≤ s.params.omWords →
    ∃ t, exec (.red192 d a) s = .next t
      ∧ t.memRead d.toNat 12 = s.memRead a.toNat 24 % p192
      ∧ t.carry = s.carry ∧ t.ge = s.ge ∧ Completed t

/-- R74: MULP192 completes and writes `(x * y) mod p`; no flag is written. -/
def Obligations.Mulp192Result : Prop :=
  ∀ (d a b : OmAddr) (s : State),
    d.toNat + 12 ≤ s.params.omWords → a.toNat + 12 ≤ s.params.omWords → b.toNat + 12 ≤ s.params.omWords →
    ∃ t, exec (.mulp192 d a b) s = .next t
      ∧ t.memRead d.toNat 12 = s.memRead a.toNat 12 * s.memRead b.toNat 12 % p192
      ∧ t.carry = s.carry ∧ t.ge = s.ge ∧ Completed t

/-- R73, R74, R87: the frame of RED192 and MULP192, rejected or not: 12 words at DST, ERR and BUSY. -/
def Obligations.FieldCommandsFrame : Prop :=
  ∀ (d a b : OmAddr) (i : Instr) (s t : State),
    (i = .red192 d a ∨ i = .mulp192 d a b) → exec i s = .next t →
    SameControl s t ∧ t.carry = s.carry ∧ t.ge = s.ge ∧ t.ctrl = s.ctrl ∧ OmSameOutside ⟨d.toNat, 12⟩ s t

/-! ## Exponentiation -/

/-- R75: the bit functions read bit `i` of a word's and of a multiword value's integer. -/
def Obligations.BitExtraction : Prop :=
  (∀ (w : Word) (i : Nat), i ≤ 15 → ithBit w i = w.toNat.testBit i)
    ∧ ∀ (e : List Word) (i : Nat), i < 16 * e.length →
        mpIthBit e i = ithBit (e.getD (i / 16) 0) (i % 16) ∧ mpIthBit e i = (wordsVal e).testBit i

/-- R76: the top-bit functions give the index of the most significant set bit of a nonzero value. -/
def Obligations.TopBitIndex : Prop :=
  (∀ w : Word, w ≠ 0 → ∃ t, bitLen w = some t ∧ t ≤ 15 ∧ w.toNat.testBit t = true ∧ w.toNat < 2 ^ (t + 1))
    ∧ ∀ e : List Word, wordsVal e ≠ 0 → ∃ t, mpBitLen e = some t
        ∧ (wordsVal e).testBit t = true ∧ wordsVal e < 2 ^ (t + 1)

/-- R78, R79: EXPW completes and writes `g^e mod p`, 1 for a zero exponent; no flag is written. -/
def Obligations.ExpwResult : Prop :=
  ∀ (d g e : OmAddr) (s : State),
    d.toNat + 12 ≤ s.params.omWords → g.toNat + 12 ≤ s.params.omWords → e.toNat + 1 ≤ s.params.omWords →
    ∃ t, exec (.expw d g e) s = .next t
      ∧ t.memRead d.toNat 12 = s.memRead g.toNat 12 ^ (s.omWord e.toNat).toNat % p192
      ∧ t.carry = s.carry ∧ t.ge = s.ge ∧ Completed t

/-- R78, R80: EXPMP completes and writes `g^e mod p`, 1 for a zero exponent; no flag is written. -/
def Obligations.ExpmpResult : Prop :=
  ∀ (d g e : OmAddr) (n : WordLen) (s : State),
    1 ≤ n.toNat → n.toNat ≤ s.params.nmax →
    d.toNat + 12 ≤ s.params.omWords → g.toNat + 12 ≤ s.params.omWords →
    e.toNat + n.toNat ≤ s.params.omWords →
    ∃ t, exec (.expmp d g e n) s = .next t
      ∧ t.memRead d.toNat 12 = s.memRead g.toNat 12 ^ s.memRead e.toNat n.toNat % p192
      ∧ t.carry = s.carry ∧ t.ge = s.ge ∧ Completed t

/-- The number of set bits of a value among its `k` lowest bits. -/
def popcountBelow (v : Nat) : Nat → Nat
  | 0 => 0
  | k + 1 => popcountBelow v k + (if v.testBit k then 1 else 0)

/-- The work of R81 for an exponent of value `v` with top-bit index `top`: none for a zero exponent, else
`t + 1` squarings and as many multiplications as set bits, at least 1 and at most `t + 1`. -/
def WorkCounts (v : Nat) (top : Option Nat) (r : Controller) : Prop :=
  (v = 0 → r.squarings = 0 ∧ r.multiplications = 0)
    ∧ (v ≠ 0 → ∃ t, top = some t ∧ v.testBit t = true ∧ v < 2 ^ (t + 1)
        ∧ r.squarings = t + 1 ∧ r.multiplications = popcountBelow v (t + 1)
        ∧ 1 ≤ r.multiplications ∧ r.multiplications ≤ t + 1)

/-- R81: the controller's work, for EXPW's and EXPMP's exponents, from whatever an earlier run left in it; and it
ends in DONE. -/
def Obligations.ControllerWorkCounts : Prop :=
  ∀ (g : Nat) (c : Controller),
    (∀ e : Word, (expwCtrl g e c).phase = .done ∧ WorkCounts e.toNat (bitLen e) (expwCtrl g e c))
      ∧ ∀ e : List Word, (expmpCtrl g e c).phase = .done
          ∧ WorkCounts (wordsVal e) (mpBitLen e) (expmpCtrl g e c)

/-- R63, R64, R80 (corner cases): with N = 1, ADDMP and SUBMP do what ADDW and SUBW with CIN 0 do, and EXPMP
does what EXPW does. -/
def Obligations.OneWordForms : Prop :=
  ∀ (d a b : OmAddr) (s : State), 1 ≤ s.params.nmax →
    exec (.addmp d a b 1) s = exec (.addw d a b false) s
      ∧ exec (.submp d a b 1) s = exec (.subw d a b false) s
      ∧ exec (.expmp d a b 1) s = exec (.expw d a b) s

/-- R79, R80, R87: the frame of EXPW and EXPMP, rejected or not: 12 words at DST, the controller, ERR and
BUSY. -/
def Obligations.ExponentiationFrame : Prop :=
  ∀ (d g e : OmAddr) (n : WordLen) (i : Instr) (s t : State),
    (i = .expw d g e ∨ i = .expmp d g e n) → exec i s = .next t →
    SameControl s t ∧ t.carry = s.carry ∧ t.ge = s.ge ∧ OmSameOutside ⟨d.toNat, 12⟩ s t

/-! ## Checks and submission -/

/-- R51, R83: N = 0 and N > NMAX are rejected with ERR_LEN, in every command that uses N, and change
nothing else. The spec checks N at submission (R84); that a meaning repeats the check, here on an idle
engine, is the model's choice (notes/assumptions/10.md). -/
def Obligations.IllegalLengthRejected : Prop :=
  ∀ (d a b : OmAddr) (n : WordLen) (i : Instr) (s : State), s.engine = .idle →
    (i = .addmp d a b n ∨ i = .submp d a b n ∨ i = .mulmp d a b n ∨ i = .cmpmp a b n ∨ i = .expmp d a b n) →
    (n = 0 ∨ s.params.nmax < n.toNat) →
    exec i s = .next { s with err := .len }

/-- R85: with a legal wordlength, a command of which some operand leaves OM is rejected with ERR_RANGE and
changes nothing else; one whose every operand fits runs, however its operands overlap. The operands and their
lengths are those of R49, an unused field being none of them. The spec makes this check at submission (R84);
that a meaning repeats it, here on an idle engine, is the model's choice (notes/assumptions/10.md). -/
def Obligations.OperandRangeCheck : Prop :=
  ∀ (i : Instr) (s : State), s.engine = .idle →
    (∀ n, i.wordlen = some n → 1 ≤ n ∧ n ≤ s.params.nmax) →
    (∀ r ∈ i.operands, s.params.omWords < r.base + r.len → exec i s = .next { s with err := .range })
      ∧ ((∀ r ∈ i.operands, r.base + r.len ≤ s.params.omWords) → ∃ t, exec i s = .next t ∧ Completed t)

/-- R84: the checks are made in the order OPC, fields, length, range, and the first that fails decides. -/
def Obligations.ChecksInOrder : Prop :=
  ∀ (p : Params) (c : Cmd),
    (submitCheck p c = .error .opc ↔ Opcode.ofCode (cmdOpc c) = none)
      ∧ (submitCheck p c = .error .field ↔ ∃ op, Opcode.ofCode (cmdOpc c) = some op ∧ c &&& op.mask ≠ op.pattern)
      ∧ (submitCheck p c = .error .len ↔ ∃ i n, decode c = .ok i ∧ i.wordlen = some n ∧ ¬ (1 ≤ n ∧ n ≤ p.nmax))
      ∧ (submitCheck p c = .error .range ↔ ∃ i r, decode c = .ok i
          ∧ (∀ n, i.wordlen = some n → 1 ≤ n ∧ n ≤ p.nmax) ∧ r ∈ i.operands ∧ p.omWords < r.base + r.len)
      ∧ ∀ i, submitCheck p c = .ok i ↔ decode c = .ok i ∧ i.wf p = true

/-- R87: a CMD3 write that submits a rejected command stores CMD3 (R17), writes ERR and changes nothing else;
BUSY stays 0. -/
def Obligations.RejectionChangesErrOnly : Prop :=
  ∀ (s : State) (v : Word) (rest : List HostAction) (code : ErrCode),
    Config.paramsInRange s.params → s.engine = .idle → s.host = .write 0x803 v :: rest →
    submitCheck s.params (cmdOfHalves s.cmd0 s.cmd1 s.cmd2 v) = .error code →
    step s = .next { s with cmd3 := v, err := code, host := rest, hReady := true, hRdata := none }

/-- R84, R16, R23: a CMD3 write that submits an acceptable command latches it, sets `ERR = 0` and `BUSY = 1`,
and changes nothing else. -/
def Obligations.AcceptanceLatchesCommand : Prop :=
  ∀ (s : State) (v : Word) (rest : List HostAction) (i : Instr),
    Config.paramsInRange s.params → s.engine = .idle → s.host = .write 0x803 v :: rest →
    submitCheck s.params (cmdOfHalves s.cmd0 s.cmd1 s.cmd2 v) = .ok i →
    ∃ k, step s = .next { s with
      cmd3 := v, latch := cmdOfHalves s.cmd0 s.cmd1 s.cmd2 v, err := .ok, engine := .busy,
      cyclesLeft := k, host := rest, hReady := true, hRdata := none }

/-- R23, R88: the step that completes a command is the meaning of the latched command; and a command put
there by `withFetchWord` is the one the next step runs. That a command completes in the step with no cycle
left is the model's choice (notes/assumptions/5.md), and so is `withFetchWord`
(notes/assumptions/12.md). -/
def Obligations.StepRunsLatchedCommand : Prop :=
  (∀ (s : State) (i : Instr), s.engine = .busy → s.cyclesLeft = 0 → (∀ rest, s.host ≠ .reset :: rest) →
      decode s.latch = .ok i → step s = exec i s.quiet)
    ∧ ∀ (s : State) (w : Nat) (i : Instr), decodeTableWord 64 w = some i →
        step (s.withFetchWord 64 w) = exec i (s.withFetchWord 64 w).quiet

/-- R58, R84, R88, R105: from IDLE, the four host writes of ISSUE followed by the command's LATENCY lead to
the command's effect on the state with that command in CMD0 to CMD3. That BUSY lasts LATENCY steps is the
model's choice (notes/assumptions/5.md). -/
def Obligations.IssuedCommandTakesEffect : Prop :=
  ∀ (s : State) (c : Cmd) (i : Instr),
    Config.paramsInRange s.params → s.engine = .idle → s.host = hostIssue c →
    submitCheck s.params c = .ok i →
    runSteps (4 + Config.latency c (s.operandWords i)) s
      = exec i (s.withRunning c).quiet

/-- R88, R104: an accepted command completes when its latency has passed, whatever the host requests
meanwhile but a reset. The count of steps is the model's (notes/assumptions/5.md). -/
def Obligations.AcceptedCommandCompletes : Prop :=
  ∀ s : State, s.Inv → s.engine = .busy → NoReset s →
    ∃ t, runSteps (s.cyclesLeft + 1) s = .next t ∧ Completed t

/-! ## The whole machine -/

/-- R82, R90: no step faults or is refused. -/
def Obligations.EveryStepAnswersNext : Prop := ∀ s : State, ∃ t, step s = .next t

/-- R20, R21: CARRY changes only at the completion of ADDW, SUBW, ADDMP or SUBMP, and GE only at the completion
of CMPMP (or at reset). -/
def Obligations.FlagsWrittenByTheirCommandsOnly : Prop :=
  ∀ s t : State, step s = .next t → s.stepKind ≠ .reset →
    (t.carry ≠ s.carry → s.stepKind = .complete ∧ ∃ i, decode s.latch = .ok i ∧ i.wf s.params = true
      ∧ i.opcode ∈ [.addw, .subw, .addmp, .submp])
    ∧ (t.ge ≠ s.ge → s.stepKind = .complete ∧ ∃ i, decode s.latch = .ok i ∧ i.wf s.params = true
      ∧ i.opcode = .cmpmp)

/-- R29, R97: an OM word changes only by a host write to its address, by the completion of a command whose
destination covers it, or by a reset that aborts such a command. -/
def Obligations.OmWordChangesOnlyByWrite : Prop :=
  ∀ (s t : State) (a : Nat), step s = .next t → t.omWord a ≠ s.omWord a →
    (s.engine = .idle ∧ ∃ h v rest, s.host = .write h v :: rest ∧ h.toNat = a ∧ a < s.params.omWords ∧ t.omWord a = v)
      ∨ (s.engine = .busy ∧ (s.stepKind = .complete ∨ s.stepKind = .reset)
          ∧ ∃ i r, decode s.latch = .ok i ∧ i.dstRange = some r ∧ r.covers a)

/-- R16: IDLE to BUSY only when a submitted command passes every check; BUSY to IDLE only at completion or
reset. -/
def Obligations.BusyTransitions : Prop :=
  ∀ s t : State, step s = .next t →
    (s.engine = .idle → t.engine = .busy →
        ∃ v rest i, s.host = .write 0x803 v :: rest
          ∧ submitCheck s.params (cmdOfHalves s.cmd0 s.cmd1 s.cmd2 v) = .ok i)
      ∧ (s.engine = .busy → t.engine = .idle → s.stepKind = .complete ∨ s.stepKind = .reset)

/-- R17: a command register changes only by a host write to its address or by reset; the engine never
writes one. -/
def Obligations.CommandRegistersWrittenByHostOnly : Prop :=
  ∀ s t : State, step s = .next t → s.stepKind ≠ .reset →
    (t.cmd0 ≠ s.cmd0 → s.engine = .idle ∧ ∃ rest, s.host = .write 0x800 t.cmd0 :: rest)
      ∧ (t.cmd1 ≠ s.cmd1 → s.engine = .idle ∧ ∃ rest, s.host = .write 0x801 t.cmd1 :: rest)
      ∧ (t.cmd2 ≠ s.cmd2 → s.engine = .idle ∧ ∃ rest, s.host = .write 0x802 t.cmd2 :: rest)
      ∧ (t.cmd3 ≠ s.cmd3 → s.engine = .idle ∧ ∃ rest, s.host = .write 0x803 t.cmd3 :: rest)

/-- R22, R82: in states of the invariant, ERR changes only at a submission (a CMD3 write) or at reset. -/
def Obligations.ErrChangesOnlyAtSubmission : Prop :=
  ∀ s t : State, s.Inv → step s = .next t → t.err ≠ s.err → s.stepKind ≠ .reset →
    s.engine = .idle ∧ ∃ v rest, s.host = .write 0x803 v :: rest

/-- R36, R108: what an accepted command writes depends on the words of its source operands alone: not on
flags, registers, the controller or any other OM word, overlapping destinations included. -/
def Obligations.ResultDependsOnSourcesOnly : Prop :=
  ∀ (i : Instr) (s u t v : State), s.params = u.params → i.wf s.params = true →
    (∀ r ∈ i.sources, ∀ a, r.covers a → s.omWord a = u.omWord a) →
    exec i s = .next t → exec i u = .next v →
    (∀ r a, i.dstRange = some r → r.covers a → t.omWord a = v.omWord a)
      ∧ (i.opcode ∈ [.addw, .subw, .addmp, .submp] → t.carry = v.carry)
      ∧ (i.opcode = .cmpmp → t.ge = v.ge)

/-- Every step keeps the invariant: parameters in range, OM canonical and inside its size, and while BUSY the
latch holds the accepted command of the command registers with `ERR = 0`. -/
def Obligations.StepKeepsInv : Prop :=
  ∀ s t : State, s.Inv → step s = .next t → t.Inv

/-- The invariant holds after reset. -/
def Obligations.ResetHasInv : Prop := State.reset.Inv

/-! ## The host port and reset -/

/-- R31 to R33, R39: a host read while IDLE completes with the mapped word, 0 where nothing is mapped, and
changes nothing else. -/
def Obligations.HostReadReturnsMappedWord : Prop :=
  ∀ (s : State) (h : HostAddr) (rest : List HostAction),
    Config.paramsInRange s.params → s.engine = .idle → s.host = .read h :: rest →
    step s = .next { s with
      host := rest
      hReady := true
      hRdata := some
        (if h.toNat < s.params.omWords then s.omWord h.toNat
         else if h = 0x800 then s.cmd0
         else if h = 0x801 then s.cmd1
         else if h = 0x802 then s.cmd2
         else if h = 0x803 then s.cmd3
         else if h = 0x804 then s.statusWord
         else 0) }

/-- R17, R31, R32: a host write while IDLE replaces one OM word, or one of CMD0 to CMD2, and changes nothing
else. -/
def Obligations.HostWriteStoresWord : Prop :=
  ∀ (s : State) (h : HostAddr) (v : Word) (rest : List HostAction),
    Config.paramsInRange s.params → s.engine = .idle → s.host = .write h v :: rest →
    (h.toNat < s.params.omWords → ∃ m, step s = .next { s with om := m, host := rest, hReady := true, hRdata := none }
        ∧ ∀ a, m.word a = if a = h.toNat then v else s.omWord a)
      ∧ (h = 0x800 → step s = .next { s with cmd0 := v, host := rest, hReady := true, hRdata := none })
      ∧ (h = 0x801 → step s = .next { s with cmd1 := v, host := rest, hReady := true, hRdata := none })
      ∧ (h = 0x802 → step s = .next { s with cmd2 := v, host := rest, hReady := true, hRdata := none })

/-- R33: a read of an unmapped address returns 0x0000; a write to an unmapped address, or to STATUS, is
ignored; neither changes ERR (or anything but the port). -/
def Obligations.UnmappedAccess : Prop :=
  ∀ (s : State) (h : HostAddr) (v : Word) (rest : List HostAction),
    Config.paramsInRange s.params → s.engine = .idle →
    ((s.params.omWords ≤ h.toNat ∧ h.toNat ≤ 0x7FF) ∨ 0x805 ≤ h.toNat →
      s.host = .read h :: rest → step s = .next { s with host := rest, hReady := true, hRdata := some 0 })
    ∧ ((s.params.omWords ≤ h.toNat ∧ h.toNat ≤ 0x7FF) ∨ 0x804 ≤ h.toNat →
      s.host = .write h v :: rest → step s = .next { s with host := rest, hReady := true, hRdata := none })

/-- R40: while BUSY, every transfer but a STATUS read is held: it stays pending, `h_ready` is 0, and only the
running command's time passes (the count is the model's, notes/assumptions/5.md). -/
def Obligations.TransferHeldWhileBusy : Prop :=
  ∀ (s : State) (x : HostAction) (rest : List HostAction),
    s.engine = .busy → s.cyclesLeft ≠ 0 → s.host = x :: rest →
    ((∃ h v, x = .write h v) ∨ ∃ h, x = .read h ∧ h ≠ 0x804) →
    step s = .next { s with cyclesLeft := s.cyclesLeft - 1, hReady := false, hRdata := none }

/-- R40, R19, R102: in states of the invariant, a STATUS read while BUSY completes at once and returns
BUSY = 1, ERR = 0 and the CARRY and GE of before the command. -/
def Obligations.StatusReadWhileBusy : Prop :=
  ∀ (s : State) (rest : List HostAction), s.Inv →
    s.engine = .busy → s.cyclesLeft ≠ 0 → s.host = .read 0x804 :: rest →
    step s = .next { s with
      cyclesLeft := s.cyclesLeft - 1, host := rest, hReady := true,
      hRdata := some (BitVec.ofNat 16 (1 + 2 * s.carry.toNat + 4 * s.ge.toNat)) }

/-- R18: the fields of STATUS. Bit 0 is BUSY, bit 1 CARRY, bit 2 GE, bits 7:4 ERR; bits 3 and 15:8 read 0. -/
def Obligations.StatusFields : Prop :=
  ∀ s : State,
    s.statusWord.getLsbD 0 = decide (s.engine = .busy)
      ∧ s.statusWord.getLsbD 1 = s.carry ∧ s.statusWord.getLsbD 2 = s.ge ∧ s.statusWord.getLsbD 3 = false
      ∧ s.statusWord.extractLsb' 4 4 = s.err.bits ∧ s.err.bits.toNat ≤ 4
      ∧ s.statusWord.extractLsb' 8 8 = 0

/-- R58, R31: LOAD from IDLE leaves the listed words in OM, and every other word as it was. -/
def Obligations.LoadWritesWords : Prop :=
  ∀ (s : State) (a : HostAddr) (ws : List Word),
    Config.paramsInRange s.params → s.engine = .idle → s.host = hostLoad a ws →
    a.toNat + ws.length ≤ s.params.omWords →
    ∃ t, runSteps ws.length s = .next t
      ∧ t.omWords a.toNat ws.length = ws ∧ OmSameOutside ⟨a.toNat, ws.length⟩ s t ∧ t.host = []

/-- R96, R27, R29: at a reset the registers and STATUS take their reset values, no transfer completes, and an
idle engine's OM keeps every word. -/
def Obligations.ResetTakesResetValues : Prop :=
  ∀ (s : State) (rest : List HostAction), s.host = .reset :: rest →
    ∃ t, step s = .next t
      ∧ t.engine = .idle ∧ t.carry = false ∧ t.ge = false ∧ t.err = .ok
      ∧ t.cmd0 = 0 ∧ t.cmd1 = 0 ∧ t.cmd2 = 0 ∧ t.cmd3 = 0
      ∧ t.hReady = false ∧ t.host = rest ∧ t.params = s.params
      ∧ (s.engine = .idle → t.om = s.om)

/-- R97: a reset while BUSY leaves every OM word outside the command's destination as it was, and a free word
in each destination word; the flags are not the command's but the reset values. The free values are the
model's (notes/assumptions/3.md), and the statement holds whatever they are. -/
def Obligations.ResetAbortsCommand : Prop :=
  ∀ (s : State) (rest : List HostAction) (i : Instr), s.host = .reset :: rest → s.engine = .busy →
    decode s.latch = .ok i →
    ∃ t, step s = .next t ∧ t.engine = .idle ∧ t.carry = false ∧ t.ge = false ∧ t.err = .ok
      ∧ (∀ a, (∀ r, i.dstRange = some r → ¬ r.covers a) → t.omWord a = s.omWord a)
      ∧ ∀ r k, i.dstRange = some r → k < r.len → t.omWord (r.base + k) = Config.freeWord (s.draws + k)

/-- R27: the state after reset: IDLE, STATUS and the command registers 0. (That no OM word has a value is the
model's, notes/assumptions/2.md.) -/
def Obligations.ResetState : Prop :=
  State.reset.engine = .idle ∧ State.reset.carry = false ∧ State.reset.ge = false ∧ State.reset.err = .ok
    ∧ State.reset.cmd0 = 0 ∧ State.reset.cmd1 = 0 ∧ State.reset.cmd2 = 0 ∧ State.reset.cmd3 = 0
    ∧ State.reset.statusWord = 0 ∧ State.reset.om = []
end

