-- ==== Sys2Proof/Laws/Controller.lean ====
section
/-! SUPPORT. The exponentiation controller's transitions, one lemma a state of R77. -/

namespace Sys2Proof.Machine

variable {g : Nat} {top : Option Nat} {bit : Nat → Bool} {c : Controller}

theorem Controller.step_init_zero (h : c.phase = .init) :
    Controller.step g none bit c = { c with phase := .done, acc := 1, squarings := 0, multiplications := 0 } := by
  simp [Controller.step, h]

theorem Controller.step_init_nonzero {t : Nat} (h : c.phase = .init) :
    Controller.step g (some t) bit c =
      { phase := .square, top := t, idx := t, acc := 1, squarings := 0, multiplications := 0 } := by
  simp [Controller.step, h]

theorem Controller.step_square (h : c.phase = .square) :
    Controller.step g top bit c =
      if bit c.idx = true then
        { c with
          phase := .multiply, acc := BitVec.ofNat 192 (mulP c.acc.toNat c.acc.toNat)
          squarings := c.squarings + 1 }
      else Controller.advance
        { c with
          acc := BitVec.ofNat 192 (mulP c.acc.toNat c.acc.toNat), squarings := c.squarings + 1 } := by
  simp [Controller.step, h]

theorem Controller.step_multiply (h : c.phase = .multiply) :
    Controller.step g top bit c = Controller.advance
      { c with
        acc := BitVec.ofNat 192 (mulP c.acc.toNat g), multiplications := c.multiplications + 1 } := by
  simp [Controller.step, h]

theorem Controller.run_done (k : Nat) (h : c.phase = .done) : Controller.run g top bit k c = c := by
  cases k <;> simp [Controller.run, h]

theorem Controller.run_step (k : Nat) (h : c.phase ≠ .done) :
    Controller.run g top bit (k + 1) c = Controller.run g top bit k (Controller.step g top bit c) := by
  simp [Controller.run, h]

end Sys2Proof.Machine
end

