-- ==== Sys2Proof/Laws/Decode.lean ====
section
/-! SUPPORT. The fields of an encoded command, and the checks in terms of well-formedness. -/

namespace Sys2Proof

/-- Bit `k` of a field placed at bit `j` of a command. -/
theorem placed_getLsbD {w : Nat} (x : BitVec w) {j k : Nat} (hk : k < 64) :
    (x.setWidth 64 <<< j).getLsbD k = (decide (j ≤ k) && x.getLsbD (k - j)) := by
  by_cases h : j ≤ k
  · simp [hk, h, Nat.not_lt.2 h]
  · simp [hk, h, Nat.not_le.1 h]

/-- Every bit of an encoded command, in the order of R46. -/
theorem packFields_getLsbD (op : Opcode) (cin : Bool) (d a b : OmAddr) (n : WordLen) (k : Nat) (hk : k < 64) :
    (packFields op cin d a b n).getLsbD k =
      (op.code.getLsbD k || (decide (5 ≤ k) && (BitVec.ofBool cin).getLsbD (k - 5))
        || (decide (8 ≤ k) && d.getLsbD (k - 8)) || (decide (18 ≤ k) && a.getLsbD (k - 18))
        || (decide (28 ≤ k) && b.getLsbD (k - 28)) || (decide (38 ≤ k) && n.getLsbD (k - 38))) := by
  simp only [packFields, BitVec.getLsbD_or, placed_getLsbD _ hk, BitVec.getLsbD_setWidth, hk, decide_true,
    Bool.true_and]

/-- A well-formed command is one that passes checks 3 and 4 of R84. -/
theorem Instr.wf_iff_check (p : Params) (i : Instr) : i.wf p = true ↔ i.check p = .ok := by
  simp only [Instr.wf, Instr.check]
  cases i.lenOk p <;> cases i.rangesOk p <;> simp

end Sys2Proof
end

