-- ==== Sys2Proof/Laws/State.lean ====
section
/-! SUPPORT. Each field after each named update of the state. -/

namespace Sys2Proof.Machine

variable (s : State)

@[simp] theorem State.memWrite_params (b n v : Nat) : (s.memWrite b n v).params = s.params := rfl
@[simp] theorem State.memWrite_om (b n v : Nat) : (s.memWrite b n v).om = s.om.setWords b (wordsOf n v) := rfl
@[simp] theorem State.memWrite_cmd0 (b n v : Nat) : (s.memWrite b n v).cmd0 = s.cmd0 := rfl
@[simp] theorem State.memWrite_cmd1 (b n v : Nat) : (s.memWrite b n v).cmd1 = s.cmd1 := rfl
@[simp] theorem State.memWrite_cmd2 (b n v : Nat) : (s.memWrite b n v).cmd2 = s.cmd2 := rfl
@[simp] theorem State.memWrite_cmd3 (b n v : Nat) : (s.memWrite b n v).cmd3 = s.cmd3 := rfl
@[simp] theorem State.memWrite_engine (b n v : Nat) : (s.memWrite b n v).engine = s.engine := rfl
@[simp] theorem State.memWrite_carry (b n v : Nat) : (s.memWrite b n v).carry = s.carry := rfl
@[simp] theorem State.memWrite_ge (b n v : Nat) : (s.memWrite b n v).ge = s.ge := rfl
@[simp] theorem State.memWrite_err (b n v : Nat) : (s.memWrite b n v).err = s.err := rfl
@[simp] theorem State.memWrite_latch (b n v : Nat) : (s.memWrite b n v).latch = s.latch := rfl
@[simp] theorem State.memWrite_cyclesLeft (b n v : Nat) : (s.memWrite b n v).cyclesLeft = s.cyclesLeft := rfl
@[simp] theorem State.memWrite_ctrl (b n v : Nat) : (s.memWrite b n v).ctrl = s.ctrl := rfl
@[simp] theorem State.memWrite_host (b n v : Nat) : (s.memWrite b n v).host = s.host := rfl
@[simp] theorem State.memWrite_hReady (b n v : Nat) : (s.memWrite b n v).hReady = s.hReady := rfl
@[simp] theorem State.memWrite_hRdata (b n v : Nat) : (s.memWrite b n v).hRdata = s.hRdata := rfl
@[simp] theorem State.memWrite_draws (b n v : Nat) : (s.memWrite b n v).draws = s.draws := rfl

@[simp] theorem State.withCarry_params (v : Bool) : (s.withCarry v).params = s.params := rfl
@[simp] theorem State.withCarry_om (v : Bool) : (s.withCarry v).om = s.om := rfl
@[simp] theorem State.withCarry_cmd0 (v : Bool) : (s.withCarry v).cmd0 = s.cmd0 := rfl
@[simp] theorem State.withCarry_cmd1 (v : Bool) : (s.withCarry v).cmd1 = s.cmd1 := rfl
@[simp] theorem State.withCarry_cmd2 (v : Bool) : (s.withCarry v).cmd2 = s.cmd2 := rfl
@[simp] theorem State.withCarry_cmd3 (v : Bool) : (s.withCarry v).cmd3 = s.cmd3 := rfl
@[simp] theorem State.withCarry_engine (v : Bool) : (s.withCarry v).engine = s.engine := rfl
@[simp] theorem State.withCarry_carry (v : Bool) : (s.withCarry v).carry = v := rfl
@[simp] theorem State.withCarry_ge (v : Bool) : (s.withCarry v).ge = s.ge := rfl
@[simp] theorem State.withCarry_err (v : Bool) : (s.withCarry v).err = s.err := rfl
@[simp] theorem State.withCarry_latch (v : Bool) : (s.withCarry v).latch = s.latch := rfl
@[simp] theorem State.withCarry_cyclesLeft (v : Bool) : (s.withCarry v).cyclesLeft = s.cyclesLeft := rfl
@[simp] theorem State.withCarry_ctrl (v : Bool) : (s.withCarry v).ctrl = s.ctrl := rfl
@[simp] theorem State.withCarry_host (v : Bool) : (s.withCarry v).host = s.host := rfl
@[simp] theorem State.withCarry_hReady (v : Bool) : (s.withCarry v).hReady = s.hReady := rfl
@[simp] theorem State.withCarry_hRdata (v : Bool) : (s.withCarry v).hRdata = s.hRdata := rfl
@[simp] theorem State.withCarry_draws (v : Bool) : (s.withCarry v).draws = s.draws := rfl

@[simp] theorem State.withGe_params (v : Bool) : (s.withGe v).params = s.params := rfl
@[simp] theorem State.withGe_om (v : Bool) : (s.withGe v).om = s.om := rfl
@[simp] theorem State.withGe_cmd0 (v : Bool) : (s.withGe v).cmd0 = s.cmd0 := rfl
@[simp] theorem State.withGe_cmd1 (v : Bool) : (s.withGe v).cmd1 = s.cmd1 := rfl
@[simp] theorem State.withGe_cmd2 (v : Bool) : (s.withGe v).cmd2 = s.cmd2 := rfl
@[simp] theorem State.withGe_cmd3 (v : Bool) : (s.withGe v).cmd3 = s.cmd3 := rfl
@[simp] theorem State.withGe_engine (v : Bool) : (s.withGe v).engine = s.engine := rfl
@[simp] theorem State.withGe_carry (v : Bool) : (s.withGe v).carry = s.carry := rfl
@[simp] theorem State.withGe_ge (v : Bool) : (s.withGe v).ge = v := rfl
@[simp] theorem State.withGe_err (v : Bool) : (s.withGe v).err = s.err := rfl
@[simp] theorem State.withGe_latch (v : Bool) : (s.withGe v).latch = s.latch := rfl
@[simp] theorem State.withGe_cyclesLeft (v : Bool) : (s.withGe v).cyclesLeft = s.cyclesLeft := rfl
@[simp] theorem State.withGe_ctrl (v : Bool) : (s.withGe v).ctrl = s.ctrl := rfl
@[simp] theorem State.withGe_host (v : Bool) : (s.withGe v).host = s.host := rfl
@[simp] theorem State.withGe_hReady (v : Bool) : (s.withGe v).hReady = s.hReady := rfl
@[simp] theorem State.withGe_hRdata (v : Bool) : (s.withGe v).hRdata = s.hRdata := rfl
@[simp] theorem State.withGe_draws (v : Bool) : (s.withGe v).draws = s.draws := rfl

@[simp] theorem State.withCtrl_params (c : Controller) : (s.withCtrl c).params = s.params := rfl
@[simp] theorem State.withCtrl_om (c : Controller) : (s.withCtrl c).om = s.om := rfl
@[simp] theorem State.withCtrl_cmd0 (c : Controller) : (s.withCtrl c).cmd0 = s.cmd0 := rfl
@[simp] theorem State.withCtrl_cmd1 (c : Controller) : (s.withCtrl c).cmd1 = s.cmd1 := rfl
@[simp] theorem State.withCtrl_cmd2 (c : Controller) : (s.withCtrl c).cmd2 = s.cmd2 := rfl
@[simp] theorem State.withCtrl_cmd3 (c : Controller) : (s.withCtrl c).cmd3 = s.cmd3 := rfl
@[simp] theorem State.withCtrl_engine (c : Controller) : (s.withCtrl c).engine = s.engine := rfl
@[simp] theorem State.withCtrl_carry (c : Controller) : (s.withCtrl c).carry = s.carry := rfl
@[simp] theorem State.withCtrl_ge (c : Controller) : (s.withCtrl c).ge = s.ge := rfl
@[simp] theorem State.withCtrl_err (c : Controller) : (s.withCtrl c).err = s.err := rfl
@[simp] theorem State.withCtrl_latch (c : Controller) : (s.withCtrl c).latch = s.latch := rfl
@[simp] theorem State.withCtrl_cyclesLeft (c : Controller) : (s.withCtrl c).cyclesLeft = s.cyclesLeft := rfl
@[simp] theorem State.withCtrl_ctrl (c : Controller) : (s.withCtrl c).ctrl = c := rfl
@[simp] theorem State.withCtrl_host (c : Controller) : (s.withCtrl c).host = s.host := rfl
@[simp] theorem State.withCtrl_hReady (c : Controller) : (s.withCtrl c).hReady = s.hReady := rfl
@[simp] theorem State.withCtrl_hRdata (c : Controller) : (s.withCtrl c).hRdata = s.hRdata := rfl
@[simp] theorem State.withCtrl_draws (c : Controller) : (s.withCtrl c).draws = s.draws := rfl

@[simp] theorem State.quiet_params : (s.quiet).params = s.params := rfl
@[simp] theorem State.quiet_om : (s.quiet).om = s.om := rfl
@[simp] theorem State.quiet_cmd0 : (s.quiet).cmd0 = s.cmd0 := rfl
@[simp] theorem State.quiet_cmd1 : (s.quiet).cmd1 = s.cmd1 := rfl
@[simp] theorem State.quiet_cmd2 : (s.quiet).cmd2 = s.cmd2 := rfl
@[simp] theorem State.quiet_cmd3 : (s.quiet).cmd3 = s.cmd3 := rfl
@[simp] theorem State.quiet_engine : (s.quiet).engine = s.engine := rfl
@[simp] theorem State.quiet_carry : (s.quiet).carry = s.carry := rfl
@[simp] theorem State.quiet_ge : (s.quiet).ge = s.ge := rfl
@[simp] theorem State.quiet_err : (s.quiet).err = s.err := rfl
@[simp] theorem State.quiet_latch : (s.quiet).latch = s.latch := rfl
@[simp] theorem State.quiet_cyclesLeft : (s.quiet).cyclesLeft = s.cyclesLeft := rfl
@[simp] theorem State.quiet_ctrl : (s.quiet).ctrl = s.ctrl := rfl
@[simp] theorem State.quiet_host : (s.quiet).host = s.host := rfl
@[simp] theorem State.quiet_hReady : (s.quiet).hReady = false := rfl
@[simp] theorem State.quiet_hRdata : (s.quiet).hRdata = none := rfl
@[simp] theorem State.quiet_draws : (s.quiet).draws = s.draws := rfl

@[simp] theorem State.reject_params (c : ErrCode) : (s.reject c).params = s.params := rfl
@[simp] theorem State.reject_om (c : ErrCode) : (s.reject c).om = s.om := rfl
@[simp] theorem State.reject_cmd0 (c : ErrCode) : (s.reject c).cmd0 = s.cmd0 := rfl
@[simp] theorem State.reject_cmd1 (c : ErrCode) : (s.reject c).cmd1 = s.cmd1 := rfl
@[simp] theorem State.reject_cmd2 (c : ErrCode) : (s.reject c).cmd2 = s.cmd2 := rfl
@[simp] theorem State.reject_cmd3 (c : ErrCode) : (s.reject c).cmd3 = s.cmd3 := rfl
@[simp] theorem State.reject_engine (c : ErrCode) : (s.reject c).engine = .idle := rfl
@[simp] theorem State.reject_carry (c : ErrCode) : (s.reject c).carry = s.carry := rfl
@[simp] theorem State.reject_ge (c : ErrCode) : (s.reject c).ge = s.ge := rfl
@[simp] theorem State.reject_err (c : ErrCode) : (s.reject c).err = c := rfl
@[simp] theorem State.reject_latch (c : ErrCode) : (s.reject c).latch = s.latch := rfl
@[simp] theorem State.reject_cyclesLeft (c : ErrCode) : (s.reject c).cyclesLeft = s.cyclesLeft := rfl
@[simp] theorem State.reject_ctrl (c : ErrCode) : (s.reject c).ctrl = s.ctrl := rfl
@[simp] theorem State.reject_host (c : ErrCode) : (s.reject c).host = s.host := rfl
@[simp] theorem State.reject_hReady (c : ErrCode) : (s.reject c).hReady = s.hReady := rfl
@[simp] theorem State.reject_hRdata (c : ErrCode) : (s.reject c).hRdata = s.hRdata := rfl
@[simp] theorem State.reject_draws (c : ErrCode) : (s.reject c).draws = s.draws := rfl

@[simp] theorem State.complete_params : (s.complete).params = s.params := rfl
@[simp] theorem State.complete_om : (s.complete).om = s.om := rfl
@[simp] theorem State.complete_cmd0 : (s.complete).cmd0 = s.cmd0 := rfl
@[simp] theorem State.complete_cmd1 : (s.complete).cmd1 = s.cmd1 := rfl
@[simp] theorem State.complete_cmd2 : (s.complete).cmd2 = s.cmd2 := rfl
@[simp] theorem State.complete_cmd3 : (s.complete).cmd3 = s.cmd3 := rfl
@[simp] theorem State.complete_engine : (s.complete).engine = .idle := rfl
@[simp] theorem State.complete_carry : (s.complete).carry = s.carry := rfl
@[simp] theorem State.complete_ge : (s.complete).ge = s.ge := rfl
@[simp] theorem State.complete_err : (s.complete).err = .ok := rfl
@[simp] theorem State.complete_latch : (s.complete).latch = s.latch := rfl
@[simp] theorem State.complete_cyclesLeft : (s.complete).cyclesLeft = s.cyclesLeft := rfl
@[simp] theorem State.complete_ctrl : (s.complete).ctrl = s.ctrl := rfl
@[simp] theorem State.complete_host : (s.complete).host = s.host := rfl
@[simp] theorem State.complete_hReady : (s.complete).hReady = s.hReady := rfl
@[simp] theorem State.complete_hRdata : (s.complete).hRdata = s.hRdata := rfl
@[simp] theorem State.complete_draws : (s.complete).draws = s.draws := rfl

@[simp] theorem State.accept_params (i : Instr) : (s.accept i).params = s.params := rfl
@[simp] theorem State.accept_om (i : Instr) : (s.accept i).om = s.om := rfl
@[simp] theorem State.accept_cmd0 (i : Instr) : (s.accept i).cmd0 = s.cmd0 := rfl
@[simp] theorem State.accept_cmd1 (i : Instr) : (s.accept i).cmd1 = s.cmd1 := rfl
@[simp] theorem State.accept_cmd2 (i : Instr) : (s.accept i).cmd2 = s.cmd2 := rfl
@[simp] theorem State.accept_cmd3 (i : Instr) : (s.accept i).cmd3 = s.cmd3 := rfl
@[simp] theorem State.accept_engine (i : Instr) : (s.accept i).engine = .busy := rfl
@[simp] theorem State.accept_carry (i : Instr) : (s.accept i).carry = s.carry := rfl
@[simp] theorem State.accept_ge (i : Instr) : (s.accept i).ge = s.ge := rfl
@[simp] theorem State.accept_err (i : Instr) : (s.accept i).err = .ok := rfl
@[simp] theorem State.accept_latch (i : Instr) : (s.accept i).latch = s.cmd := rfl
@[simp] theorem State.accept_cyclesLeft (i : Instr) : (s.accept i).cyclesLeft = Config.latency s.cmd (s.operandWords i) - 1 := rfl
@[simp] theorem State.accept_ctrl (i : Instr) : (s.accept i).ctrl = s.ctrl := rfl
@[simp] theorem State.accept_host (i : Instr) : (s.accept i).host = s.host := rfl
@[simp] theorem State.accept_hReady (i : Instr) : (s.accept i).hReady = s.hReady := rfl
@[simp] theorem State.accept_hRdata (i : Instr) : (s.accept i).hRdata = s.hRdata := rfl
@[simp] theorem State.accept_draws (i : Instr) : (s.accept i).draws = s.draws := rfl

@[simp] theorem State.tick_params : (s.tick).params = s.params := rfl
@[simp] theorem State.tick_om : (s.tick).om = s.om := rfl
@[simp] theorem State.tick_cmd0 : (s.tick).cmd0 = s.cmd0 := rfl
@[simp] theorem State.tick_cmd1 : (s.tick).cmd1 = s.cmd1 := rfl
@[simp] theorem State.tick_cmd2 : (s.tick).cmd2 = s.cmd2 := rfl
@[simp] theorem State.tick_cmd3 : (s.tick).cmd3 = s.cmd3 := rfl
@[simp] theorem State.tick_engine : (s.tick).engine = s.engine := rfl
@[simp] theorem State.tick_carry : (s.tick).carry = s.carry := rfl
@[simp] theorem State.tick_ge : (s.tick).ge = s.ge := rfl
@[simp] theorem State.tick_err : (s.tick).err = s.err := rfl
@[simp] theorem State.tick_latch : (s.tick).latch = s.latch := rfl
@[simp] theorem State.tick_cyclesLeft : (s.tick).cyclesLeft = s.cyclesLeft - 1 := rfl
@[simp] theorem State.tick_ctrl : (s.tick).ctrl = s.ctrl := rfl
@[simp] theorem State.tick_host : (s.tick).host = s.host := rfl
@[simp] theorem State.tick_hReady : (s.tick).hReady = s.hReady := rfl
@[simp] theorem State.tick_hRdata : (s.tick).hRdata = s.hRdata := rfl
@[simp] theorem State.tick_draws : (s.tick).draws = s.draws := rfl

@[simp] theorem State.readDone_params (v : Word) (r : List HostAction) : (s.readDone v r).params = s.params := rfl
@[simp] theorem State.readDone_om (v : Word) (r : List HostAction) : (s.readDone v r).om = s.om := rfl
@[simp] theorem State.readDone_cmd0 (v : Word) (r : List HostAction) : (s.readDone v r).cmd0 = s.cmd0 := rfl
@[simp] theorem State.readDone_cmd1 (v : Word) (r : List HostAction) : (s.readDone v r).cmd1 = s.cmd1 := rfl
@[simp] theorem State.readDone_cmd2 (v : Word) (r : List HostAction) : (s.readDone v r).cmd2 = s.cmd2 := rfl
@[simp] theorem State.readDone_cmd3 (v : Word) (r : List HostAction) : (s.readDone v r).cmd3 = s.cmd3 := rfl
@[simp] theorem State.readDone_engine (v : Word) (r : List HostAction) : (s.readDone v r).engine = s.engine := rfl
@[simp] theorem State.readDone_carry (v : Word) (r : List HostAction) : (s.readDone v r).carry = s.carry := rfl
@[simp] theorem State.readDone_ge (v : Word) (r : List HostAction) : (s.readDone v r).ge = s.ge := rfl
@[simp] theorem State.readDone_err (v : Word) (r : List HostAction) : (s.readDone v r).err = s.err := rfl
@[simp] theorem State.readDone_latch (v : Word) (r : List HostAction) : (s.readDone v r).latch = s.latch := rfl
@[simp] theorem State.readDone_cyclesLeft (v : Word) (r : List HostAction) : (s.readDone v r).cyclesLeft = s.cyclesLeft := rfl
@[simp] theorem State.readDone_ctrl (v : Word) (r : List HostAction) : (s.readDone v r).ctrl = s.ctrl := rfl
@[simp] theorem State.readDone_host (v : Word) (r : List HostAction) : (s.readDone v r).host = r := rfl
@[simp] theorem State.readDone_hReady (v : Word) (r : List HostAction) : (s.readDone v r).hReady = true := rfl
@[simp] theorem State.readDone_hRdata (v : Word) (r : List HostAction) : (s.readDone v r).hRdata = some v := rfl
@[simp] theorem State.readDone_draws (v : Word) (r : List HostAction) : (s.readDone v r).draws = s.draws := rfl

@[simp] theorem State.dropAction_params (r : List HostAction) : (s.dropAction r).params = s.params := rfl
@[simp] theorem State.dropAction_om (r : List HostAction) : (s.dropAction r).om = s.om := rfl
@[simp] theorem State.dropAction_cmd0 (r : List HostAction) : (s.dropAction r).cmd0 = s.cmd0 := rfl
@[simp] theorem State.dropAction_cmd1 (r : List HostAction) : (s.dropAction r).cmd1 = s.cmd1 := rfl
@[simp] theorem State.dropAction_cmd2 (r : List HostAction) : (s.dropAction r).cmd2 = s.cmd2 := rfl
@[simp] theorem State.dropAction_cmd3 (r : List HostAction) : (s.dropAction r).cmd3 = s.cmd3 := rfl
@[simp] theorem State.dropAction_engine (r : List HostAction) : (s.dropAction r).engine = s.engine := rfl
@[simp] theorem State.dropAction_carry (r : List HostAction) : (s.dropAction r).carry = s.carry := rfl
@[simp] theorem State.dropAction_ge (r : List HostAction) : (s.dropAction r).ge = s.ge := rfl
@[simp] theorem State.dropAction_err (r : List HostAction) : (s.dropAction r).err = s.err := rfl
@[simp] theorem State.dropAction_latch (r : List HostAction) : (s.dropAction r).latch = s.latch := rfl
@[simp] theorem State.dropAction_cyclesLeft (r : List HostAction) : (s.dropAction r).cyclesLeft = s.cyclesLeft := rfl
@[simp] theorem State.dropAction_ctrl (r : List HostAction) : (s.dropAction r).ctrl = s.ctrl := rfl
@[simp] theorem State.dropAction_host (r : List HostAction) : (s.dropAction r).host = r := rfl
@[simp] theorem State.dropAction_hReady (r : List HostAction) : (s.dropAction r).hReady = false := rfl
@[simp] theorem State.dropAction_hRdata (r : List HostAction) : (s.dropAction r).hRdata = none := rfl
@[simp] theorem State.dropAction_draws (r : List HostAction) : (s.dropAction r).draws = s.draws := rfl

@[simp] theorem State.clear_params : (s.clear).params = s.params := rfl
@[simp] theorem State.clear_om : (s.clear).om = s.om := rfl
@[simp] theorem State.clear_cmd0 : (s.clear).cmd0 = 0 := rfl
@[simp] theorem State.clear_cmd1 : (s.clear).cmd1 = 0 := rfl
@[simp] theorem State.clear_cmd2 : (s.clear).cmd2 = 0 := rfl
@[simp] theorem State.clear_cmd3 : (s.clear).cmd3 = 0 := rfl
@[simp] theorem State.clear_engine : (s.clear).engine = .idle := rfl
@[simp] theorem State.clear_carry : (s.clear).carry = false := rfl
@[simp] theorem State.clear_ge : (s.clear).ge = false := rfl
@[simp] theorem State.clear_err : (s.clear).err = .ok := rfl
@[simp] theorem State.clear_latch : (s.clear).latch = 0 := rfl
@[simp] theorem State.clear_cyclesLeft : (s.clear).cyclesLeft = 0 := rfl
@[simp] theorem State.clear_ctrl : (s.clear).ctrl = Controller.reset := rfl
@[simp] theorem State.clear_host : (s.clear).host = s.host := rfl
@[simp] theorem State.clear_hReady : (s.clear).hReady = false := rfl
@[simp] theorem State.clear_hRdata : (s.clear).hRdata = none := rfl
@[simp] theorem State.clear_draws : (s.clear).draws = s.draws := rfl

@[simp] theorem State.withRunning_params (c : Cmd) : (s.withRunning c).params = s.params := rfl
@[simp] theorem State.withRunning_om (c : Cmd) : (s.withRunning c).om = s.om := rfl
@[simp] theorem State.withRunning_cmd0 (c : Cmd) : (s.withRunning c).cmd0 = cmdHalf c 0 := rfl
@[simp] theorem State.withRunning_cmd1 (c : Cmd) : (s.withRunning c).cmd1 = cmdHalf c 1 := rfl
@[simp] theorem State.withRunning_cmd2 (c : Cmd) : (s.withRunning c).cmd2 = cmdHalf c 2 := rfl
@[simp] theorem State.withRunning_cmd3 (c : Cmd) : (s.withRunning c).cmd3 = cmdHalf c 3 := rfl
@[simp] theorem State.withRunning_engine (c : Cmd) : (s.withRunning c).engine = .busy := rfl
@[simp] theorem State.withRunning_carry (c : Cmd) : (s.withRunning c).carry = s.carry := rfl
@[simp] theorem State.withRunning_ge (c : Cmd) : (s.withRunning c).ge = s.ge := rfl
@[simp] theorem State.withRunning_err (c : Cmd) : (s.withRunning c).err = .ok := rfl
@[simp] theorem State.withRunning_latch (c : Cmd) : (s.withRunning c).latch = c := rfl
@[simp] theorem State.withRunning_cyclesLeft (c : Cmd) : (s.withRunning c).cyclesLeft = 0 := rfl
@[simp] theorem State.withRunning_ctrl (c : Cmd) : (s.withRunning c).ctrl = s.ctrl := rfl
@[simp] theorem State.withRunning_host (c : Cmd) : (s.withRunning c).host = [] := rfl
@[simp] theorem State.withRunning_hReady (c : Cmd) : (s.withRunning c).hReady = s.hReady := rfl
@[simp] theorem State.withRunning_hRdata (c : Cmd) : (s.withRunning c).hRdata = s.hRdata := rfl
@[simp] theorem State.withRunning_draws (c : Cmd) : (s.withRunning c).draws = s.draws := rfl

/-- Reading OM looks at `om` alone. -/
@[simp] theorem State.omWord_def (a : Nat) : s.omWord a = s.om.word a := rfl
@[simp] theorem State.omWords_def (b n : Nat) : s.omWords b n = s.om.words b n := rfl
@[simp] theorem State.memRead_def (b n : Nat) : s.memRead b n = wordsVal (s.om.words b n) := rfl
@[simp] theorem State.reset_params : State.reset.params = Config.specParams := rfl

end Sys2Proof.Machine
end

