-- ==== Sys2Proof/Laws/Memory.lean ====
section
/-! SUPPORT. The operand memory and BigNum values: read after write, canonical form, and the words of a
value. -/

namespace Sys2Proof.Machine

theorem Memory.get?_set (m : Memory) (a b : Nat) (v : Word) :
    Memory.get? (Memory.set m a v) b = if a = b then some v else Memory.get? m b := by
  induction m with
  | nil => simp [Memory.set, Memory.get?]
  | cons x m ih =>
    obtain ⟨c, w⟩ := x
    simp only [Memory.set]
    split
    · simp [Memory.get?]
    · split
      · next h => subst h; simp only [Memory.get?]; split <;> rfl
      · next h => simp only [Memory.get?, ih]; split <;> simp_all

@[simp] theorem Memory.word_set (m : Memory) (a b : Nat) (v : Word) :
    (Memory.set m a v).word b = if a = b then v else m.word b := by
  simp only [Memory.word, Memory.get?_set]; split <;> rfl

theorem Memory.word_setWords_outside (ws : List Word) (m : Memory) (base a : Nat)
    (h : ¬ (base ≤ a ∧ a < base + ws.length)) : (Memory.setWords m base ws).word a = m.word a := by
  induction ws generalizing m base with
  | nil => rfl
  | cons w ws ih =>
    simp only [List.length_cons] at h
    simp only [Memory.setWords]
    rw [ih _ _ (by omega), Memory.word_set, if_neg (by omega)]

theorem Memory.word_setWords_inside (ws : List Word) (m : Memory) (base k : Nat) (h : k < ws.length) :
    (Memory.setWords m base ws).word (base + k) = ws[k] := by
  induction ws generalizing m base k with
  | nil => simp at h
  | cons w ws ih =>
    simp only [Memory.setWords]
    cases k with
    | zero =>
      rw [Memory.word_setWords_outside _ _ _ _ (by omega), Memory.word_set]; simp
    | succ k =>
      have := ih (Memory.set m base w) (base + 1) k (by simpa using h)
      rw [show base + (k + 1) = base + 1 + k by omega, this]; rfl

@[simp] theorem Memory.words_length (m : Memory) (base n : Nat) : (m.words base n).length = n := by
  simp [Memory.words]

theorem Memory.words_getElem (m : Memory) (base n k : Nat) (h : k < (m.words base n).length) :
    (m.words base n)[k] = m.word (base + k) := by
  simp [Memory.words]

/-- `OM[base..]` right after consecutive words were written there. -/
theorem Memory.words_setWords (m : Memory) (base : Nat) (ws : List Word) :
    (Memory.setWords m base ws).words base ws.length = ws := by
  refine List.ext_getElem (by simp) fun k h1 h2 => ?_
  rw [Memory.words_getElem, Memory.word_setWords_inside _ _ _ _ h2]

/-- An operand's words depend on the words at its addresses alone. -/
theorem Memory.words_congr {m m' : Memory} {base n : Nat}
    (h : ∀ a, base ≤ a → a < base + n → m.word a = m'.word a) : m.words base n = m'.words base n := by
  refine List.map_congr_left fun k hk => h _ (by omega) ?_
  have := List.mem_range.1 hk; omega

theorem Memory.mem_set {m : Memory} {a : Nat} {v : Word} {x : Nat × Word}
    (h : x ∈ Memory.set m a v) : x = (a, v) ∨ x ∈ m := by
  induction m with
  | nil => simpa [Memory.set] using h
  | cons y m ih =>
    obtain ⟨b, w⟩ := y
    simp only [Memory.set] at h
    split at h
    · simpa using h
    · split at h
      · rcases List.mem_cons.1 h with h | h
        · exact .inl h
        · exact .inr (List.mem_cons_of_mem _ h)
      · rcases List.mem_cons.1 h with h | h
        · exact .inr (h ▸ List.mem_cons_self)
        · exact (ih h).imp id (List.mem_cons_of_mem _)

theorem Memory.mem_setWords {ws : List Word} {m : Memory} {base : Nat} {x : Nat × Word}
    (h : x ∈ Memory.setWords m base ws) : (base ≤ x.1 ∧ x.1 < base + ws.length) ∨ x ∈ m := by
  induction ws generalizing m base with
  | nil => exact .inr h
  | cons w ws ih =>
    simp only [List.length_cons]
    rcases ih h with h | h
    · exact .inl ⟨by omega, by omega⟩
    · rcases Memory.mem_set h with rfl | h
      · exact .inl ⟨Nat.le_refl _, by simp⟩
      · exact .inr h

/-- A write keeps the canonical form. -/
theorem Memory.wf_set {m : Memory} (h : m.wf) (a : Nat) (v : Word) : (Memory.set m a v).wf := by
  induction m with
  | nil => simp [Memory.set, Memory.wf]
  | cons y m ih =>
    obtain ⟨b, w⟩ := y
    obtain ⟨hb, hm⟩ := List.pairwise_cons.1 h
    simp only [Memory.set]
    split
    · next hab =>
      refine List.pairwise_cons.2 ⟨fun x hx => ?_, h⟩
      rcases List.mem_cons.1 hx with rfl | hx
      · exact hab
      · exact Nat.lt_trans hab (hb x hx)
    · split
      · next hab => subst hab; exact List.pairwise_cons.2 ⟨hb, hm⟩
      · refine List.pairwise_cons.2 ⟨fun x hx => ?_, ih hm⟩
        rcases Memory.mem_set hx with rfl | hx
        · show b < a; omega
        · exact hb x hx

theorem Memory.wf_setWords (ws : List Word) {m : Memory} (h : m.wf) (base : Nat) :
    (Memory.setWords m base ws).wf := by
  induction ws generalizing m base with
  | nil => exact h
  | cons w ws ih => exact ih (Memory.wf_set h base w) (base + 1)

@[simp] theorem wordsOf_length (n v : Nat) : (wordsOf n v).length = n := by
  induction n generalizing v with
  | zero => rfl
  | succ n ih => simp [wordsOf, ih]

theorem wordsVal_lt (ws : List Word) : wordsVal ws < 2 ^ (16 * ws.length) := by
  induction ws with
  | nil => simp [wordsVal]
  | cons w ws ih =>
    have hw := w.isLt
    simp only [wordsVal, List.length_cons]
    rw [show 16 * (ws.length + 1) = 16 + 16 * ws.length by omega, Nat.pow_add]
    have : 2 ^ 16 * (wordsVal ws + 1) ≤ 2 ^ 16 * 2 ^ (16 * ws.length) := Nat.mul_le_mul_left _ ih
    omega

/-- The words of a value hold it modulo `2^(16n)` (R11). -/
theorem wordsVal_wordsOf (n v : Nat) : wordsVal (wordsOf n v) = v % 2 ^ (16 * n) := by
  induction n generalizing v with
  | zero => simp [wordsOf, wordsVal, Nat.mod_one]
  | succ n ih =>
    simp only [wordsOf, wordsVal, ih, BitVec.toNat_ofNat]
    rw [show 16 * (n + 1) = 16 + 16 * n by omega, Nat.pow_add, Nat.mod_mul]

/-- An operand's value is below `2^(16n)` (R7). -/
theorem memRead_lt (s : State) (base n : Nat) : s.memRead base n < 2 ^ (16 * n) := by
  simpa using wordsVal_lt (s.om.words base n)

/-- `MemRead` right after `MemWrite` at the same operand (R11). -/
theorem memRead_memWrite (s : State) (base n v : Nat) :
    (s.memWrite base n v).memRead base n = v % 2 ^ (16 * n) := by
  have := Memory.words_setWords s.om base (wordsOf n v)
  rw [wordsOf_length] at this
  simp [this, wordsVal_wordsOf]

/-- `MemWrite` leaves every word outside its operand alone. -/
theorem omWord_memWrite_outside (s : State) (base n v a : Nat) (h : ¬ (base ≤ a ∧ a < base + n)) :
    (s.memWrite base n v).omWord a = s.omWord a := by
  simpa using Memory.word_setWords_outside (wordsOf n v) s.om base a (by simpa using h)

theorem memWrite_wf {s : State} (h : s.om.wf) (base n v : Nat) : (s.memWrite base n v).om.wf :=
  Memory.wf_setWords _ h base

end Sys2Proof.Machine
end

