-- ==== Sys2Proof/Laws/Ops.lean ====
section
/-! SUPPORT. What the shared operations can do, said once. -/

namespace Sys2Proof.Machine

/-- A decoded command always answers a next state. -/
theorem runCommand_eq (i : Instr) (s : State) (f : State → State) :
    runCommand i s f = .next (if i.check s.params = .ok then (f s).complete else s.reject (i.check s.params)) := by
  simp only [runCommand]
  cases h : i.check s.params <;> simp

/-- Everything a decoded command can do: its effect and completion, or the rejection of R87. -/
theorem runCommand_cases {i : Instr} {s t : State} {f : State → State} (h : runCommand i s f = .next t) :
    (i.check s.params = .ok ∧ t = (f s).complete)
      ∨ (i.check s.params ≠ .ok ∧ t = s.reject (i.check s.params)) := by
  rw [runCommand_eq] at h
  injection h with h
  by_cases hc : i.check s.params = .ok
  · exact .inl ⟨hc, by simpa [hc] using h.symm⟩
  · exact .inr ⟨hc, by simpa [hc] using h.symm⟩

/-- A command that passes its checks has its effect and completes (R88). -/
theorem runCommand_ok {i : Instr} {s : State} {f : State → State} (h : i.check s.params = .ok) :
    runCommand i s f = .next (f s).complete := by simp [runCommand_eq, h]

/-- A command that fails a check is rejected with that check's code (R87). -/
theorem runCommand_reject {i : Instr} {s : State} {f : State → State} (h : i.check s.params ≠ .ok) :
    runCommand i s f = .next (s.reject (i.check s.params)) := by simp [runCommand_eq, h]

/-- Block `C_j` is the `j`-th digit of the input to the base 2^64 (R70). -/
theorem block_eq (c j : Nat) : block c j = c / 2 ^ (64 * j) % 2 ^ 64 := by
  rw [block, Nat.shiftRight_eq_div_pow]

/-- `RedP` and `AddModP` keep the value inside the field (R69). -/
theorem preReduce_lt {x : Nat} (h : x < 2 ^ 192) : preReduce x < p192 := by
  unfold preReduce p192
  split <;> omega

theorem lenOk_iff {i : Instr} {p : Params} :
    i.lenOk p = true ↔ ∀ n, i.wordlen = some n → 1 ≤ n ∧ n ≤ p.nmax := by
  unfold Instr.lenOk
  cases i.wordlen <;> simp

theorem rangesOk_iff {i : Instr} {p : Params} :
    i.rangesOk p = true ↔ ∀ r ∈ i.operands, r.base + r.len ≤ p.omWords := by
  simp only [Instr.rangesOk, List.all_eq_true, OmRange.fits, decide_eq_true_eq]

theorem check_len_iff {i : Instr} {p : Params} : i.check p = .len ↔ i.lenOk p = false := by
  unfold Instr.check
  cases i.lenOk p <;> cases i.rangesOk p <;> simp

theorem check_range_iff {i : Instr} {p : Params} :
    i.check p = .range ↔ i.lenOk p = true ∧ i.rangesOk p = false := by
  unfold Instr.check
  cases i.lenOk p <;> cases i.rangesOk p <;> simp

/-- Checks 3 and 4 of R84 pass exactly when N is legal and every operand lies in OM. -/
theorem check_ok_iff {i : Instr} {p : Params} :
    i.check p = .ok ↔ (∀ n, i.wordlen = some n → 1 ≤ n ∧ n ≤ p.nmax)
      ∧ ∀ r ∈ i.operands, r.base + r.len ≤ p.omWords := by
  rw [← lenOk_iff, ← rangesOk_iff]
  unfold Instr.check
  cases i.lenOk p <;> cases i.rangesOk p <;> simp

/-- The codes that checks 3 and 4 can give. -/
theorem check_cases (i : Instr) (p : Params) :
    i.check p = .ok ∨ i.check p = .len ∨ i.check p = .range := by
  unfold Instr.check
  cases i.lenOk p <;> cases i.rangesOk p <;> simp

end Sys2Proof.Machine
end

