-- ==== Sys2Proof/Laws/Exec.lean ====
section
/-! SUPPORT. Each command's meaning as its checks and its effect, one equation a command; and everything any
command can change, said once. -/

namespace Sys2Proof.Machine

variable (d a b : OmAddr) (cin : Bool) (n : WordLen) (s : State)

theorem exec_addw : exec (.addw d a b cin) s = runCommand (.addw d a b cin) s fun s =>
    (s.memWrite d.toNat 1 (addWord (s.omWord a.toNat) (s.omWord b.toNat) cin).1.toNat).withCarry
      (addWord (s.omWord a.toNat) (s.omWord b.toNat) cin).2 := rfl

theorem exec_subw : exec (.subw d a b cin) s = runCommand (.subw d a b cin) s fun s =>
    (s.memWrite d.toNat 1 (subWord (s.omWord a.toNat) (s.omWord b.toNat) cin).1.toNat).withCarry
      (subWord (s.omWord a.toNat) (s.omWord b.toNat) cin).2 := rfl

theorem exec_addmp : exec (.addmp d a b n) s = runCommand (.addmp d a b n) s fun s =>
    (s.memWrite d.toNat n.toNat (s.memRead a.toNat n.toNat + s.memRead b.toNat n.toNat)).withCarry
      (addCarry n.toNat (s.memRead a.toNat n.toNat) (s.memRead b.toNat n.toNat)) := rfl

theorem exec_submp : exec (.submp d a b n) s = runCommand (.submp d a b n) s fun s =>
    (s.memWrite d.toNat n.toNat
        (subValue n.toNat (s.memRead a.toNat n.toNat) (s.memRead b.toNat n.toNat))).withCarry
      (subBorrow (s.memRead a.toNat n.toNat) (s.memRead b.toNat n.toNat)) := rfl

theorem exec_mulmp : exec (.mulmp d a b n) s = runCommand (.mulmp d a b n) s fun s =>
    s.memWrite d.toNat (2 * n.toNat) (s.memRead a.toNat n.toNat * s.memRead b.toNat n.toNat) := rfl

theorem exec_cmpmp : exec (.cmpmp a b n) s = runCommand (.cmpmp a b n) s fun s =>
    s.withGe (compareWords (s.omWords a.toNat n.toNat) (s.omWords b.toNat n.toNat)) := rfl

theorem exec_red192 : exec (.red192 d a) s = runCommand (.red192 d a) s fun s =>
    s.memWrite d.toNat 12 (redP (s.memRead a.toNat 24)) := rfl

theorem exec_mulp192 : exec (.mulp192 d a b) s = runCommand (.mulp192 d a b) s fun s =>
    s.memWrite d.toNat 12 (mulP (s.memRead a.toNat 12) (s.memRead b.toNat 12)) := rfl

theorem exec_expw : exec (.expw d a b) s = runCommand (.expw d a b) s fun s =>
    (s.withCtrl (expwCtrl (s.memRead a.toNat 12) (s.omWord b.toNat) s.ctrl)).memWrite d.toNat 12
      (expwCtrl (s.memRead a.toNat 12) (s.omWord b.toNat) s.ctrl).acc.toNat := rfl

theorem exec_expmp : exec (.expmp d a b n) s = runCommand (.expmp d a b n) s fun s =>
    (s.withCtrl (expmpCtrl (s.memRead a.toNat 12) (s.omWords b.toNat n.toNat) s.ctrl)).memWrite d.toNat 12
      (expmpCtrl (s.memRead a.toNat 12) (s.omWords b.toNat n.toNat) s.ctrl).acc.toNat := rfl

/-- Every command is its checks and an effect. -/
theorem exec_eq_runCommand (i : Instr) : ∃ f, exec i s = runCommand i s f := by
  cases i with
  | addw d a b cin => exact ⟨_, exec_addw d a b cin s⟩
  | subw d a b cin => exact ⟨_, exec_subw d a b cin s⟩
  | addmp d a b n => exact ⟨_, exec_addmp d a b n s⟩
  | submp d a b n => exact ⟨_, exec_submp d a b n s⟩
  | mulmp d a b n => exact ⟨_, exec_mulmp d a b n s⟩
  | cmpmp a b n => exact ⟨_, exec_cmpmp a b n s⟩
  | red192 d a => exact ⟨_, exec_red192 d a s⟩
  | mulp192 d a b => exact ⟨_, exec_mulp192 d a b s⟩
  | expw d g e => exact ⟨_, exec_expw d g e s⟩
  | expmp d g e n => exact ⟨_, exec_expmp d g e n s⟩

variable {d a b n s}

/-- Everything a command can change, rejected or not: the flags of its own kind, and words of its
destination, each only when its checks pass; ERR takes the checks' code and the engine is idle. -/
structure ExecFrame (i : Instr) (s t : State) : Prop where
  control : SameControl s t
  engine : t.engine = .idle
  err : t.err = i.check s.params
  carry : t.carry = s.carry ∨ i.check s.params = .ok ∧ i.opcode ∈ [.addw, .subw, .addmp, .submp]
  ge : t.ge = s.ge ∨ i.check s.params = .ok ∧ i.opcode = .cmpmp
  word : ∀ a, t.omWord a = s.omWord a ∨ i.check s.params = .ok ∧ ∃ r, i.dstRange = some r ∧ r.covers a
  wf : s.om.wf → t.om.wf
  mem : ∀ x ∈ t.om, x ∈ s.om ∨ i.check s.params = .ok ∧ ∃ r, i.dstRange = some r ∧ r.covers x.1

theorem ExecFrame.reject {i : Instr} {t : State} (ht : t = s.reject (i.check s.params)) :
    ExecFrame i s t := by
  subst ht
  exact ⟨by simp [SameControl, State.reject], rfl, rfl, .inl rfl, .inl rfl, fun _ => .inl rfl, id,
    fun _ h => .inl h⟩

/-- A command that writes `n` words at `b`, perhaps a carry, and perhaps the controller. -/
theorem ExecFrame.store {i : Instr} {b n v : Nat} (h : i.check s.params = .ok) (hr : i.dstRange = some ⟨b, n⟩)
    (k : Controller) (c : Bool) (hc : c = s.carry ∨ i.opcode ∈ [.addw, .subw, .addmp, .submp]) :
    ExecFrame i s (((s.withCtrl k).memWrite b n v).withCarry c).complete := by
  refine ⟨by simp [SameControl, State.complete, State.withCarry, State.memWrite, State.withCtrl], rfl, h.symm,
    hc.imp id (⟨h, ·⟩), .inl rfl, fun a => ?_, fun hw => memWrite_wf hw b n v, fun x hx => ?_⟩
  · by_cases ha : b ≤ a ∧ a < b + n
    · exact .inr ⟨h, _, hr, ha⟩
    · exact .inl (omWord_memWrite_outside s b n v a ha)
  · rcases Memory.mem_setWords (ws := wordsOf n v) hx with hx | hx
    · exact .inr ⟨h, _, hr, by simpa using hx⟩
    · exact .inl hx

theorem ExecFrame.storeCarry {i : Instr} {b n v : Nat} (h : i.check s.params = .ok)
    (hr : i.dstRange = some ⟨b, n⟩) (c : Bool) (hc : i.opcode ∈ [.addw, .subw, .addmp, .submp]) :
    ExecFrame i s ((s.memWrite b n v).withCarry c).complete := .store h hr s.ctrl c (.inr hc)

theorem ExecFrame.storeOnly {i : Instr} {b n v : Nat} (h : i.check s.params = .ok)
    (hr : i.dstRange = some ⟨b, n⟩) : ExecFrame i s (s.memWrite b n v).complete :=
  .store h hr s.ctrl s.carry (.inl rfl)

theorem ExecFrame.storeCtrl {i : Instr} {b n v : Nat} (h : i.check s.params = .ok)
    (hr : i.dstRange = some ⟨b, n⟩) (k : Controller) :
    ExecFrame i s ((s.withCtrl k).memWrite b n v).complete := .store h hr k s.carry (.inl rfl)

theorem exec_frame {i : Instr} {t : State} (h : exec i s = .next t) : ExecFrame i s t := by
  cases i with
  | addw d a b cin =>
    rcases runCommand_cases (exec_addw d a b cin s ▸ h) with ⟨h1, rfl⟩ | ⟨-, h2⟩
    · exact .storeCarry h1 rfl _ (by simp [Instr.opcode])
    · exact .reject h2
  | subw d a b cin =>
    rcases runCommand_cases (exec_subw d a b cin s ▸ h) with ⟨h1, rfl⟩ | ⟨-, h2⟩
    · exact .storeCarry h1 rfl _ (by simp [Instr.opcode])
    · exact .reject h2
  | addmp d a b n =>
    rcases runCommand_cases (exec_addmp d a b n s ▸ h) with ⟨h1, rfl⟩ | ⟨-, h2⟩
    · exact .storeCarry h1 rfl _ (by simp [Instr.opcode])
    · exact .reject h2
  | submp d a b n =>
    rcases runCommand_cases (exec_submp d a b n s ▸ h) with ⟨h1, rfl⟩ | ⟨-, h2⟩
    · exact .storeCarry h1 rfl _ (by simp [Instr.opcode])
    · exact .reject h2
  | mulmp d a b n =>
    rcases runCommand_cases (exec_mulmp d a b n s ▸ h) with ⟨h1, rfl⟩ | ⟨-, h2⟩
    · exact .storeOnly h1 rfl
    · exact .reject h2
  | cmpmp a b n =>
    rcases runCommand_cases (exec_cmpmp a b n s ▸ h) with ⟨h1, rfl⟩ | ⟨-, h2⟩
    · exact ⟨by simp [SameControl, State.complete, State.withGe], rfl, h1.symm, .inl rfl, .inr ⟨h1, rfl⟩,
        fun _ => .inl rfl, id, fun _ h => .inl h⟩
    · exact .reject h2
  | red192 d a =>
    rcases runCommand_cases (exec_red192 d a s ▸ h) with ⟨h1, rfl⟩ | ⟨-, h2⟩
    · exact .storeOnly h1 rfl
    · exact .reject h2
  | mulp192 d a b =>
    rcases runCommand_cases (exec_mulp192 d a b s ▸ h) with ⟨h1, rfl⟩ | ⟨-, h2⟩
    · exact .storeOnly h1 rfl
    · exact .reject h2
  | expw d g e =>
    rcases runCommand_cases (exec_expw d g e s ▸ h) with ⟨h1, rfl⟩ | ⟨-, h2⟩
    · exact .storeCtrl h1 rfl _
    · exact .reject h2
  | expmp d g e n =>
    rcases runCommand_cases (exec_expmp d g e n s ▸ h) with ⟨h1, rfl⟩ | ⟨-, h2⟩
    · exact .storeCtrl h1 rfl _
    · exact .reject h2

end Sys2Proof.Machine
end

