-- ==== Sys2Proof/Laws/HostPort.lean ====
section
/-! SUPPORT. What a host action and a cycle of a running command can do, said once. -/

namespace Sys2Proof.Machine

/-- The host address map's register rows, for parameters in range (R32). -/
theorem hostTarget_registers {p : Params} (hp : Config.paramsInRange p) :
    hostTarget p 0x800 = .cmd0 ∧ hostTarget p 0x801 = .cmd1 ∧ hostTarget p 0x802 = .cmd2
      ∧ hostTarget p 0x803 = .cmd3 ∧ hostTarget p 0x804 = .status := by
  refine ⟨?_, ?_, ?_, ?_, ?_⟩ <;> simp [hostTarget] <;> omega

theorem submitCheck_ok {p : Params} {c : Cmd} {i : Instr} (h : submitCheck p c = .ok i) :
    decode c = .ok i ∧ i.check p = .ok := by
  unfold submitCheck at h
  split at h
  · simp at h
  · next j hj =>
    split at h
    · next hk => injection h with h; subst h; exact ⟨hj, hk⟩
    · simp at h

/-- Everything a step while IDLE can do: nothing, a wait, a read, a write of OM or of CMD0 to CMD2, a rejected
or an accepted submission, or a write that is ignored. -/
inductive IdleStepTo (s : State) : State → Prop where
  | quiet : IdleStepTo s s.quiet
  | wait {rest : List HostAction} : s.host = .wait :: rest → IdleStepTo s (s.dropAction rest)
  | read {h : HostAddr} {rest : List HostAction} : s.host = .read h :: rest →
      IdleStepTo s (s.readDone (s.hostRead h) rest)
  | om {h : HostAddr} {v : Word} {rest : List HostAction} : s.host = .write h v :: rest →
      h.toNat < s.params.omWords →
      IdleStepTo s { s with om := s.om.set h.toNat v, hReady := true, hRdata := none, host := rest }
  | cmd0 {v : Word} {rest : List HostAction} : s.host = .write 0x800 v :: rest →
      IdleStepTo s { s with cmd0 := v, hReady := true, hRdata := none, host := rest }
  | cmd1 {v : Word} {rest : List HostAction} : s.host = .write 0x801 v :: rest →
      IdleStepTo s { s with cmd1 := v, hReady := true, hRdata := none, host := rest }
  | cmd2 {v : Word} {rest : List HostAction} : s.host = .write 0x802 v :: rest →
      IdleStepTo s { s with cmd2 := v, hReady := true, hRdata := none, host := rest }
  | rejected {v : Word} {rest : List HostAction} {code : ErrCode} : s.host = .write 0x803 v :: rest →
      submitCheck s.params (cmdOfHalves s.cmd0 s.cmd1 s.cmd2 v) = .error code →
      IdleStepTo s { s with
        cmd3 := v, hReady := true, hRdata := none, host := rest, err := code, engine := .idle }
  | accepted {v : Word} {rest : List HostAction} {i : Instr} {k : Nat} : s.host = .write 0x803 v :: rest →
      submitCheck s.params (cmdOfHalves s.cmd0 s.cmd1 s.cmd2 v) = .ok i →
      IdleStepTo s { s with
        cmd3 := v, hReady := true, hRdata := none, host := rest, err := .ok, engine := .busy
        latch := cmdOfHalves s.cmd0 s.cmd1 s.cmd2 v, cyclesLeft := k }
  | ignored {h : HostAddr} {v : Word} {rest : List HostAction} : s.host = .write h v :: rest →
      IdleStepTo s { s with hReady := true, hRdata := none, host := rest }

theorem idleStep_cases (s : State) : IdleStepTo s s.idleStep := by
  unfold State.idleStep
  split
  · exact .quiet
  · next hh => exact .wait hh
  · next hh => exact .read hh
  · next a v rest hh =>
    unfold State.hostWrite
    have key : ∀ k : Nat, k < 4096 → a.toNat = k → a = BitVec.ofNat 12 k := fun k hk e =>
      BitVec.eq_of_toNat_eq (by rw [e, BitVec.toNat_ofNat, Nat.mod_eq_of_lt (by omega)])
    by_cases h1 : a.toNat < s.params.omWords
    · have ht : hostTarget s.params a = .om a.toNat := by simp [hostTarget, h1]
      simp only [ht]
      exact .om hh h1
    by_cases h2 : a.toNat = 0x800
    · have ht : hostTarget s.params a = .cmd0 := by simp_all [hostTarget]
      obtain rfl := key _ (by omega) h2
      simp only [ht]
      exact .cmd0 hh
    by_cases h3 : a.toNat = 0x801
    · have ht : hostTarget s.params a = .cmd1 := by simp_all [hostTarget]
      obtain rfl := key _ (by omega) h3
      simp only [ht]
      exact .cmd1 hh
    by_cases h4 : a.toNat = 0x802
    · have ht : hostTarget s.params a = .cmd2 := by simp_all [hostTarget]
      obtain rfl := key _ (by omega) h4
      simp only [ht]
      exact .cmd2 hh
    by_cases h5 : a.toNat = 0x803
    · have ht : hostTarget s.params a = .cmd3 := by simp_all [hostTarget]
      obtain rfl := key _ (by omega) h5
      simp only [ht, State.submit, State.cmd]
      split
      · next hc => exact .rejected hh hc
      · next hc => exact .accepted hh hc
    by_cases h6 : a.toNat = 0x804
    · have ht : hostTarget s.params a = .status := by simp_all [hostTarget]
      simp only [ht]
      exact .ignored hh
    · have ht : hostTarget s.params a = .unmapped := by simp_all [hostTarget]
      simp only [ht]
      exact .ignored hh
  · exact .quiet

/-- Everything a cycle of a running command can do: its counter goes down, and either a transfer is held, or
a STATUS read completes, or a wait passes. -/
theorem busyStep_cases (s : State) :
    s.busyStep = s.tick.quiet
      ∨ (∃ rest, s.host = .wait :: rest ∧ s.busyStep = s.tick.dropAction rest)
      ∨ ∃ h rest, s.host = .read h :: rest ∧ hostTarget s.params h = .status
          ∧ s.busyStep = s.tick.readDone s.statusWord rest := by
  unfold State.busyStep
  split
  · next h rest hh =>
    split
    · next ht => exact .inr (.inr ⟨h, rest, hh, ht, rfl⟩)
    · exact .inl rfl
  · next rest hh => exact .inr (.inl ⟨rest, hh, rfl⟩)
  · exact .inl rfl

/-- What a cycle of a running command leaves as it was. -/
theorem busyStep_frame (s : State) :
    ∃ host ready rdata, (rdata ≠ none → ready = true) ∧ (∀ x ∈ host, x ∈ s.host)
      ∧ s.busyStep = { s with
          cyclesLeft := s.cyclesLeft - 1, host := host, hReady := ready, hRdata := rdata } := by
  rcases busyStep_cases s with h | ⟨rest, hh, h⟩ | ⟨a, rest, hh, _, h⟩
  · exact ⟨s.host, false, none, by simp, fun _ hx => hx, h⟩
  · exact ⟨rest, false, none, by simp, fun x hx => hh ▸ List.mem_cons_of_mem _ hx, h⟩
  · exact ⟨rest, true, _, by simp, fun x hx => hh ▸ List.mem_cons_of_mem _ hx, h⟩

end Sys2Proof.Machine
end

