-- ==== Sys2Proof/Laws/Step.lean ====
section
/-! SUPPORT. What one step can be, said once. -/

namespace Sys2Proof.Machine

/-- Everything a step can be: a reset, a host action, a cycle of the running command, the completion of
the latched command, or (never after an acceptance) the report of a latch that decodes to none. -/
theorem step_cases {s t : State} (h : step s = .next t) :
    (s.stepKind = .reset ∧ t = s.resetStep)
      ∨ (s.stepKind = .host ∧ t = s.idleStep)
      ∨ (s.stepKind = .busy ∧ t = s.busyStep)
      ∨ (s.stepKind = .complete ∧ ∃ i, decode s.latch = .ok i ∧ exec i s.quiet = .next t)
      ∨ (s.stepKind = .complete ∧ ∃ code, decode s.latch = .error code ∧ t = s.quiet.reject code) := by
  unfold step at h
  split at h
  · next hk => injection h with h; exact .inl ⟨hk, h.symm⟩
  · next hk => injection h with h; exact .inr (.inl ⟨hk, h.symm⟩)
  · next hk => injection h with h; exact .inr (.inr (.inl ⟨hk, h.symm⟩))
  · next hk =>
    split at h
    · next i hi => exact .inr (.inr (.inr (.inl ⟨hk, i, hi, h⟩)))
    · next code hc => injection h with h; exact .inr (.inr (.inr (.inr ⟨hk, code, hc, h.symm⟩)))

theorem stepKind_reset {s : State} (h : s.stepKind = .reset) : ∃ rest, s.host = .reset :: rest := by
  unfold State.stepKind at h
  split at h
  · next rest hr => exact ⟨rest, hr⟩
  · split at h
    · simp at h
    · split at h <;> simp at h

theorem stepKind_idle {s : State} (he : s.engine = .idle) (hr : ∀ rest, s.host ≠ .reset :: rest) :
    s.stepKind = .host := by
  unfold State.stepKind
  split
  · next rest h => exact absurd h (hr rest)
  · simp [he]

theorem stepKind_busy {s : State} (he : s.engine = .busy) (hr : ∀ rest, s.host ≠ .reset :: rest) :
    s.stepKind = if s.cyclesLeft = 0 then .complete else .busy := by
  unfold State.stepKind
  split
  · next rest h => exact absurd h (hr rest)
  · simp [he]

theorem engine_of_stepKind_host {s : State} (h : s.stepKind = .host) : s.engine = .idle := by
  unfold State.stepKind at h
  split at h
  · simp at h
  · split at h
    · assumption
    · split at h <;> simp at h

theorem engine_of_stepKind_busy {s : State} (h : s.stepKind = .busy) :
    s.engine = .busy ∧ s.cyclesLeft ≠ 0 := by
  unfold State.stepKind at h
  split at h
  · simp at h
  · split at h
    · simp at h
    · split at h
      · simp at h
      · exact ⟨by assumption, by assumption⟩

theorem engine_of_stepKind_complete {s : State} (h : s.stepKind = .complete) :
    s.engine = .busy ∧ s.cyclesLeft = 0 := by
  unfold State.stepKind at h
  split at h
  · simp at h
  · split at h
    · simp at h
    · split at h
      · exact ⟨by assumption, by assumption⟩
      · simp at h

/-- While IDLE, with no reset, a step is a host action. -/
theorem step_idle {s : State} (he : s.engine = .idle) (hr : ∀ rest, s.host ≠ .reset :: rest) :
    step s = .next s.idleStep := by simp [step, stepKind_idle he hr]

/-- While BUSY before the last cycle, with no reset, a step is a cycle of the command. -/
theorem step_busy {s : State} (he : s.engine = .busy) (hc : s.cyclesLeft ≠ 0)
    (hr : ∀ rest, s.host ≠ .reset :: rest) : step s = .next s.busyStep := by
  simp [step, stepKind_busy he hr, hc]

/-- In the last cycle, with no reset, a step runs the latched command. -/
theorem step_complete {s : State} {i : Instr} (he : s.engine = .busy) (hc : s.cyclesLeft = 0)
    (hr : ∀ rest, s.host ≠ .reset :: rest) (hd : decode s.latch = .ok i) : step s = exec i s.quiet := by
  simp [step, stepKind_busy he hr, hc, hd]

/-- A pending reset is taken first. -/
theorem step_reset {s : State} {rest : List HostAction} (h : s.host = .reset :: rest) :
    step s = .next s.resetStep := by simp [step, State.stepKind, h]

theorem runSteps_zero (s : State) : runSteps 0 s = .next s := rfl

theorem runSteps_succ {s t : State} (k : Nat) (h : step s = .next t) : runSteps (k + 1) s = runSteps k t := by
  simp only [runSteps, h]

end Sys2Proof.Machine
end

