-- ==== Sys2Proof/Tests/Slice0.lean ====
section
/-! SUPPORT. The model's own tests, with expected values from the spec (95_test_vectors.md unless a comment says
otherwise), and a witness of the hypotheses of every statement that has any. -/

namespace Sys2Proof.Tests.Slice0

open Sys2Proof Sys2Proof.Machine

/-- The next state of an outcome. -/
def after : StepOutcome → Option State
  | .next t => some t
  | .fault _ => none
  | .refused _ => none

/-- After reset, with words loaded at two addresses. -/
def loaded (a : Nat) (x : List Word) (b : Nat) (y : List Word) : State :=
  { State.reset with om := Memory.setWords (Memory.setWords [] a x) b y }

/-- What a test looks at: the result words and STATUS. -/
def seen (base n : Nat) (o : StepOutcome) : Option (List Word × Word) :=
  (after o).map fun t => (t.omWords base n, t.statusWord)

/-- After reset, idle, with a command in CMD0 to CMD3, CARRY = 1 and GE = 1 (the preamble of section 2.5). -/
def written (c : Cmd) : State :=
  { State.reset with
    cmd0 := cmdHalf c 0, cmd1 := cmdHalf c 1, cmd2 := cmdHalf c 2, cmd3 := cmdHalf c 3
    carry := true, ge := true }

/-- The words of RA and RB, the source's regression operands. -/
def regA : List Word :=
  [0x7DA0, 0x6C9D, 0x574F, 0xD615, 0x85C2, 0xCB5F, 0xCA49, 0x4285, 0x1F5C, 0x7799, 0xEA25, 0xD94C]

def regB : List Word :=
  [0xF3EA, 0x85D3, 0x0C32, 0xA075, 0xC431, 0x4AA2, 0xBC82, 0x96C5, 0xF7A7, 0x2B89, 0x0215, 0xD845]

/-! ## Well-formedness refuses (R51, R85) -/

theorem test_wf_refuses_length_zero : (Instr.addmp 0 0 0 0).wf Config.specParams = false := by decide

theorem test_wf_refuses_length_33 : (Instr.cmpmp 0 0 33).wf Config.specParams = false := by decide

/-- The example of R85: 1001 + 24 = 1025, and 1000 + 24 = 1024 passes. -/
theorem test_wf_refuses_range :
    (Instr.red192 0 1001).wf Config.specParams = false ∧ (Instr.red192 0 1000).wf Config.specParams = true := by
  decide

/-! ## Decoding: one word of section 2.6 for every command -/

theorem test_decode_addw : decode 0x0000000110401221 = .ok (.addw 0x012 0x010 0x011 true) := by decide

theorem test_decode_subw : decode 0x000000002007FF22 = .ok (.subw 0x3FF 0x001 0x002 true) := by decide

theorem test_decode_addmp : decode 0x0000030200010003 = .ok (.addmp 0x100 0x000 0x020 12) := by decide

theorem test_decode_submp : decode 0x0000007FFFFFFF04 = .ok (.submp 0x3FF 0x3FF 0x3FF 1) := by decide

theorem test_decode_mulmp : decode 0x00000300C0004005 = .ok (.mulmp 0x040 0x000 0x00C 12) := by decide

theorem test_decode_cmpmp : decode 0x00000300C0000006 = .ok (.cmpmp 0x000 0x00C 12) := by decide

theorem test_decode_red192 : decode 0x0000000001006007 = .ok (.red192 0x060 0x040) := by decide

theorem test_decode_mulp192 : decode 0x0000000601806008 = .ok (.mulp192 0x060 0x060 0x060) := by decide

theorem test_decode_expw : decode 0x00000006C1808009 = .ok (.expw 0x080 0x060 0x06C) := by decide

theorem test_decode_expmp : decode 0x00000FFFFFFFFF0A = .ok (.expmp 0x3FF 0x3FF 0x3FF 63) := by decide

/-- The pseudo-instructions of V-ENC-2 and V-ENC-8, and the CMD0 to CMD3 columns of V-ENC-3. -/
theorem test_pseudo_and_halves :
    encode (Pseudo.sbbw 0x3FF 0x001 0x002).expand = 0x000000002007FF22
      ∧ encode (Pseudo.sqrp192 0x060 0x060).expand = 0x0000000601806008
      ∧ encodeHalves (.addmp 0x100 0x000 0x020 12) = [0x0003, 0x0001, 0x0302, 0x0000] := by decide

theorem test_asm : (Instr.addw 18 16 17 true).asm = "ADDW 18, 16, 17, 1" := by decide

/-! ## Submission: section 2.5 -/

/-- V-ERR-1, 2, 3 (OPC first), 4, 5, 7, 8, 9, 11 (fields before length). -/
theorem test_errors_opc_field :
    ([0x0000000000000000, 0x000000000000000B, 0x800000000000001F, 0x0000004030080101, 0x0000030400010023,
        0x0000010400010045, 0x0000010400000106, 0x0000000018030007, 0x0000000400000106] : List Cmd).map
      (fun c => (written c).submit.statusWord)
    = [0x0016, 0x0016, 0x0016, 0x0026, 0x0026, 0x0026, 0x0026, 0x0026, 0x0026] := by decide

/-- V-ERR-12, 13, 14, 15, 16, 17, 18 (length before range). -/
theorem test_errors_len_range :
    ([0x0000000400010003, 0x0000084400010003, 0x00000FC0C000200A, 0x000000000FA70007, 0x000008040003C105,
        0x0000023FC0010003, 0x0000003FC0010003] : List Cmd).map (fun c => (written c).submit.statusWord)
    = [0x0036, 0x0036, 0x0036, 0x0046, 0x0046, 0x0046, 0x0036] := by decide

/-- V-OK-1 to V-OK-5 are accepted: BUSY = 1, ERR = 0, and the flags of before (R102). -/
theorem test_accepted :
    ([0x000000000FA30007, 0x000008040003C005, 0x0000003FFFFFFF21, 0x0000004000000003, 0x0000033F4FD3F40A] :
        List Cmd).map (fun c => (written c).submit.statusWord)
    = [0x0007, 0x0007, 0x0007, 0x0007, 0x0007] := by decide

/-! ## Commands: sections 2.1 to 2.4 -/

/-- V-ADDW-3: carry from the carry-in alone. -/
theorem test_addw_carry_in :
    seen 0x012 1 (exec (.addw 0x012 0x010 0x011 true) (loaded 0x010 [0xFFFF] 0x011 [0x0000]))
      = some ([0x0000], 0x0002) := by decide

/-- V-ADDW-8: the word is read before it is written. -/
theorem test_addw_alias :
    seen 0x010 1 (exec (.addw 0x010 0x010 0x010 true) (loaded 0x010 [0x9000] 0x011 []))
      = some ([0x2001], 0x0002) := by decide

/-- V-SUBW-3: no borrow (90_conflicts.md C1). -/
theorem test_subw_no_borrow :
    seen 0x012 1 (exec (.subw 0x012 0x010 0x011 false) (loaded 0x010 [0xFFFF] 0x011 [0xFFFF]))
      = some ([0x0000], 0x0000) := by decide

/-- V-SUBW-4: the subtrahend is 2^16. -/
theorem test_subw_wide_subtrahend :
    seen 0x012 1 (exec (.subw 0x012 0x010 0x011 true) (loaded 0x010 [0x1234] 0x011 [0xFFFF]))
      = some ([0x1234], 0x0002) := by decide

/-- V-ADDMP-1: CARRY = 1 (90_conflicts.md C3). -/
theorem test_addmp_regression :
    seen 0x100 12 (exec (.addmp 0x100 0x000 0x040 12) (loaded 0x000 regA 0x040 regB))
      = some ([0x718A, 0xF271, 0x6381, 0x768A, 0x49F4, 0x1602, 0x86CC, 0xD94B, 0x1703, 0xA323, 0xEC3A, 0xB191],
        0x0002) := by decide

/-- V-ADDMP-6: the carry crosses a word, none comes out. -/
theorem test_addmp_inner_carry :
    seen 0x100 2 (exec (.addmp 0x100 0x000 0x040 2) (loaded 0x000 [0xFFFF, 0x7FFF] 0x040 [0x0001, 0x0000]))
      = some ([0x0000, 0x8000], 0x0000) := by decide

/-- V-SUBMP-3: 0 - 1 borrows out. -/
theorem test_submp_borrow :
    seen 0x100 4 (exec (.submp 0x100 0x000 0x040 4)
        (loaded 0x000 [0x0000, 0x0000, 0x0000, 0x0000] 0x040 [0x0001, 0x0000, 0x0000, 0x0000]))
      = some ([0xFFFF, 0xFFFF, 0xFFFF, 0xFFFF], 0x0002) := by decide

/-- V-SUBMP-6: the borrow crosses a word, none comes out. -/
theorem test_submp_inner_borrow :
    seen 0x100 2 (exec (.submp 0x100 0x000 0x040 2) (loaded 0x000 [0x0000, 0x0001] 0x040 [0x0001, 0x0000]))
      = some ([0xFFFF, 0x0000], 0x0000) := by decide

/-- V-MULMP-7: DST = SRCA = SRCB. -/
theorem test_mulmp_overlap :
    seen 0x000 4 (exec (.mulmp 0x000 0x000 0x000 2) (loaded 0x000 [0xFFFF, 0xFFFF] 0x040 []))
      = some ([0x0001, 0x0000, 0xFFFE, 0xFFFF], 0x0000) := by decide

/-- V-MULMP-3. -/
theorem test_mulmp_word :
    seen 0x100 2 (exec (.mulmp 0x100 0x000 0x040 1) (loaded 0x000 [0x1234] 0x040 [0x5678]))
      = some ([0x0060, 0x0626], 0x0000) := by decide

/-- V-CMPMP-4: a higher word decides. -/
theorem test_cmpmp_high_word :
    seen 0x000 0 (exec (.cmpmp 0x000 0x040 2) (loaded 0x000 [0x0000, 0x0001] 0x040 [0xFFFF, 0x0000]))
      = some ([], 0x0004) := by decide

/-- V-CMPMP-6: word 0 decides. -/
theorem test_cmpmp_low_word :
    seen 0x000 0 (exec (.cmpmp 0x000 0x040 2) (loaded 0x000 [0x0001, 0x0005] 0x040 [0x0002, 0x0005]))
      = some ([], 0x0000) := by decide

/-- V-RED-5: `(p - 1)^2` gives 1, which needs the pre-reduction of R71 (90_conflicts.md C4). -/
theorem test_red192_prereduction :
    seen 0x300 12 (exec (.red192 0x300 0x200) (loaded 0x200
        [0x0004, 0x0000, 0x0000, 0x0000, 0x0004, 0x0000, 0x0000, 0x0000, 0x0001, 0x0000, 0x0000, 0x0000]
        0x20C [0xFFFC, 0xFFFF, 0xFFFF, 0xFFFF, 0xFFFD, 0xFFFF, 0xFFFF, 0xFFFF, 0xFFFF, 0xFFFF, 0xFFFF, 0xFFFF]))
      = some ([0x0001, 0, 0, 0, 0, 0, 0, 0, 0, 0, 0, 0], 0x0000) := by decide +kernel

/-- V-RED-3: the largest input gives `2^128 + 2^65`. -/
theorem test_red192_largest :
    seen 0x300 12 (exec (.red192 0x300 0x200)
        (loaded 0x200 (List.replicate 12 0xFFFF) 0x20C (List.replicate 12 0xFFFF)))
      = some ([0, 0, 0, 0, 0x0002, 0, 0, 0, 0x0001, 0, 0, 0], 0x0000) := by decide +kernel

/-- V-MULP-4: an operand above `p` is reduced. -/
theorem test_mulp192_unreduced :
    seen 0x018 12 (exec (.mulp192 0x018 0x000 0x00C) (loaded 0x000 [0x0001, 0, 0, 0, 0, 0, 0, 0, 0, 0, 0, 0]
        0x00C [0x0004, 0, 0, 0, 0xFFFF, 0xFFFF, 0xFFFF, 0xFFFF, 0xFFFF, 0xFFFF, 0xFFFF, 0xFFFF]))
      = some ([0x0005, 0, 0, 0, 0, 0, 0, 0, 0, 0, 0, 0], 0x0000) := by decide

/-- V-MULP-7: the accumulator pattern `A = A * A`. -/
theorem test_mulp192_in_place :
    seen 0x000 12 (exec (.mulp192 0x000 0x000 0x000) (loaded 0x000 regA 0x00C []))
      = some ([0xDB39, 0x4A7E, 0x9921, 0xEBDB, 0x8402, 0xBE05, 0xE141, 0xEB94, 0x9152, 0xCB95, 0x2216, 0xAC06],
        0x0000) := by decide

/-- V-EXP-1, with its 3 squarings and 2 multiplications. -/
theorem test_expw :
    (after (exec (.expw 0x020 0x000 0x00C)
        (loaded 0x000 [0x0002, 0, 0, 0, 0, 0, 0, 0, 0, 0, 0, 0] 0x00C [0x0005]))).map
      (fun t => (t.omWords 0x020 12, t.ctrl.squarings, t.ctrl.multiplications))
      = some ([0x0020, 0, 0, 0, 0, 0, 0, 0, 0, 0, 0, 0], 3, 2) := by decide +kernel

/-- V-EXP-3: `0^0 = 1`. -/
theorem test_expw_zero :
    seen 0x020 12 (exec (.expw 0x020 0x000 0x00C) (loaded 0x000 (List.replicate 12 0) 0x00C [0x0000]))
      = some ([0x0001, 0, 0, 0, 0, 0, 0, 0, 0, 0, 0, 0], 0x0000) := by decide

/-- V-EXP-14: leading zero words of the exponent change nothing. -/
theorem test_expmp_leading_zeros :
    (after (exec (.expmp 0x020 0x000 0x00C 3)
        (loaded 0x000 [0x0002, 0, 0, 0, 0, 0, 0, 0, 0, 0, 0, 0] 0x00C [0x0005, 0x0000, 0x0000]))).map
      (fun t => (t.omWords 0x020 12, t.ctrl.squarings, t.ctrl.multiplications))
      = some ([0x0020, 0, 0, 0, 0, 0, 0, 0, 0, 0, 0, 0], 3, 2) := by decide +kernel

/-- V-OK-5: full overlap at the top of OM. -/
theorem test_expmp_overlap :
    seen 0x3F4 12 (exec (.expmp 0x3F4 0x3F4 0x3F4 12) (loaded 0x3F4 (List.replicate 12 0) 0 []))
      = some ([0x0001, 0, 0, 0, 0, 0, 0, 0, 0, 0, 0, 0], 0x0000) := by decide

/-! ## Steps -/

/-- A command in its last cycle runs: V-ADDW-2 through `withFetchWord`. -/
theorem test_step_runs_command :
    (after (step ((loaded 0x010 [0xFFFF] 0x011 [0x0001]).withFetchWord 64 0x0000000110401201))).map
      (fun t => (t.omWord 0x012, t.statusWord)) = some (0x0000, 0x0002) := by decide

/-- P5: a write of 0 to CMD3 after reset submits the zero command, which is rejected with ERR_OPC. -/
theorem test_step_zero_command :
    (after (step { State.reset with host := [.write 0x803 0] })).map (fun t => (t.statusWord, t.hReady))
      = some (0x0010, true) := by decide

/-- R33: a read of an unmapped address returns 0. -/
theorem test_step_unmapped_read :
    (after (step { State.reset with host := [.read 0x400] })).map (fun t => t.hRdata) = some (some 0) := by decide

/-- R17: CMD registers read back as written. -/
theorem test_step_register_read :
    (after (step { written 0x123456789ABCDEF0 with host := [.read 0x802] })).map (fun t => t.hRdata)
      = some (some 0x5678) := by decide

/-- R101: CMD0 to CMD2 keep their old values across a write to CMD3, which submits (here: OPC 0x10). -/
theorem test_step_keeps_halves :
    (after (step { written 0x0000567890ABCDF0 with host := [.write 0x803 0x4321] })).map
      (fun t => (t.cmd, t.statusWord)) = some (0x4321567890ABCDF0, 0x0016) := by decide

/-! ## Witnesses of the statements' hypotheses -/

/-- ADDW in the whole of its running time: `n` more cycles and then its completion. -/
def running (n : Nat) (host : List HostAction) : State :=
  { (loaded 0x010 [0xFFFF] 0x011 [0x0001]).withRunning 0x0000000110401201 with cyclesLeft := n, host := host }

/-- After reset, with host actions pending. -/
def pending (host : List HostAction) : State := { loaded 0x010 [0xFFFF] 0x3FF [0x0001] with host := host }

theorem witness_EncodeOfDecode : decode 0x0000007FFFFFFF04 = .ok (.submp 0x3FF 0x3FF 0x3FF 1) := by decide

theorem witness_ReservedOpcodeRejected :
    (written 0x0).engine = .idle ∧ (written 0x0).cmd.toNat % 32 = 0
      ∧ (written 0x0B).engine = .idle ∧ 0x0B ≤ (written 0x0B).cmd.toNat % 32
      ∧ 0x0B ≤ (written 0x1F).cmd.toNat % 32 := by decide

theorem witness_FieldCheckIsUnusedBits :
    (0x0000004030080101 : Cmd).toNat % 32 = Opcode.addw.code.toNat
      ∧ (written 0x0000004030080101).engine = .idle ∧ (written 0x0000004030080101).cmd = 0x0000004030080101
      ∧ ¬ UnusedBitsZero .addw 0x0000004030080101 ∧ UnusedBitsZero .addw 0x0000000110401221 := by
  unfold UnusedBitsZero
  decide

/-- The last OM address. -/
theorem witness_AddwResult_SubwResult : (0x3FF : OmAddr).toNat < State.reset.params.omWords := by decide

theorem witness_WordCommandsFrame :
    ∃ t u, exec (.addw 0x012 0x010 0x011 false) (pending []) = .next t
      ∧ exec (.subw 0x012 0x010 0x011 true) (pending []) = .next u := ⟨_, _, rfl, rfl⟩

/-- The largest N, with a destination that ends at the last word of OM. -/
theorem witness_AddmpResult_SubmpResult :
    1 ≤ (32 : WordLen).toNat ∧ (32 : WordLen).toNat ≤ State.reset.params.nmax
      ∧ (0x3E0 : OmAddr).toNat + (32 : WordLen).toNat ≤ State.reset.params.omWords := by decide

/-- V-OK-2: 960 + 64 = 1024. -/
theorem witness_MulmpResult :
    1 ≤ (32 : WordLen).toNat ∧ (32 : WordLen).toNat ≤ State.reset.params.nmax
      ∧ (960 : OmAddr).toNat + 2 * (32 : WordLen).toNat ≤ State.reset.params.omWords
      ∧ (0x3E0 : OmAddr).toNat + (32 : WordLen).toNat ≤ State.reset.params.omWords := by decide

theorem witness_CmpmpResult :
    1 ≤ (1 : WordLen).toNat ∧ (1 : WordLen).toNat ≤ State.reset.params.nmax
      ∧ (0x3FF : OmAddr).toNat + (1 : WordLen).toNat ≤ State.reset.params.omWords := by decide

theorem witness_MultiprecisionFrame :
    ∃ t u v, exec (.addmp 0x100 0 0 1) State.reset = .next t ∧ exec (.submp 0x100 0 0 1) State.reset = .next u
      ∧ exec (.mulmp 0x100 0 0 1) State.reset = .next v := ⟨_, _, _, rfl, rfl, rfl⟩

theorem witness_CmpmpFrame : ∃ t, exec (.cmpmp 0 0 1) State.reset = .next t := ⟨_, rfl⟩

theorem witness_WordChainsAreClosedForms_SchoolbookIsExactProduct :
    ([0xFFFF, 0xFFFF] : List Word).length = ([0x0001, 0x0000] : List Word).length := by decide

theorem witness_ModularAdder : p192 - 1 < p192 := by decide

/-- The largest 24-word value. -/
theorem witness_SlicesCongruent_ReductionIsResidue : 2 ^ 384 - 1 < 2 ^ 384 := by norm_num

theorem witness_SlicesReducedOnce :
    sliceS3 (p192 * p192) ∈ [sliceT (p192 * p192), sliceS1 (p192 * p192), sliceS2 (p192 * p192),
      sliceS3 (p192 * p192)] := by simp

theorem witness_Red192Result :
    (0x3F4 : OmAddr).toNat + 12 ≤ State.reset.params.omWords
      ∧ (1000 : OmAddr).toNat + 24 ≤ State.reset.params.omWords := by decide

theorem witness_Mulp192Result : (0x3F4 : OmAddr).toNat + 12 ≤ State.reset.params.omWords := by decide

theorem witness_FieldCommandsFrame :
    ∃ t u, exec (.red192 0x300 0x200) State.reset = .next t
      ∧ exec (.mulp192 0x300 0x200 0x200) State.reset = .next u :=
  ⟨_, _, (exec_red192 ..).trans (runCommand_eq ..), (exec_mulp192 ..).trans (runCommand_eq ..)⟩

theorem witness_BitExtraction : 15 ≤ 15 ∧ 31 < 16 * ([0x0000, 0x8000] : List Word).length := by decide

theorem witness_TopBitIndex : (0x8000 : Word) ≠ 0 ∧ wordsVal [0x0000, 0x0001] ≠ 0 := by decide

theorem witness_ExpwResult :
    (0x3F4 : OmAddr).toNat + 12 ≤ State.reset.params.omWords
      ∧ (0x3FF : OmAddr).toNat + 1 ≤ State.reset.params.omWords := by decide

theorem witness_ExpmpResult :
    1 ≤ (32 : WordLen).toNat ∧ (32 : WordLen).toNat ≤ State.reset.params.nmax
      ∧ (0x3F4 : OmAddr).toNat + 12 ≤ State.reset.params.omWords
      ∧ (0x3E0 : OmAddr).toNat + (32 : WordLen).toNat ≤ State.reset.params.omWords := by decide

/-- Both clauses of R81's statement: a zero and a nonzero exponent. -/
theorem witness_ControllerWorkCounts : wordsVal [0x0000] = 0 ∧ wordsVal [0x0005, 0x0000] ≠ 0 := by decide

theorem witness_OneWordForms : 1 ≤ State.reset.params.nmax := by decide

theorem witness_ExponentiationFrame :
    ∃ t u, exec (.expw 0x020 0 0x00C) State.reset = .next t
      ∧ exec (.expmp 0x020 0 0x00C 3) State.reset = .next u :=
  ⟨_, _, (exec_expw ..).trans (runCommand_eq ..), (exec_expmp ..).trans (runCommand_eq ..)⟩

theorem witness_IllegalLengthRejected :
    State.reset.engine = .idle ∧ (0 : WordLen) = 0 ∧ State.reset.params.nmax < (33 : WordLen).toNat := by decide

/-- Both clauses: RED192 at 1001 leaves OM, at 1000 it fits. -/
theorem witness_OperandRangeCheck :
    State.reset.engine = .idle ∧ (Instr.red192 0 1001).wordlen = none
      ∧ (⟨1001, 24⟩ : OmRange) ∈ (Instr.red192 0 1001).operands ∧ State.reset.params.omWords < 1001 + 24
      ∧ ∀ r ∈ (Instr.red192 0 1000).operands, r.base + r.len ≤ State.reset.params.omWords := by decide

/-- Each outcome of the four checks is reached. -/
theorem witness_ChecksInOrder :
    submitCheck Config.specParams 0x800000000000001F = .error .opc
      ∧ submitCheck Config.specParams 0x0000000400000106 = .error .field
      ∧ submitCheck Config.specParams 0x0000003FC0010003 = .error .len
      ∧ submitCheck Config.specParams 0x000000000FA70007 = .error .range
      ∧ submitCheck Config.specParams 0x000000000FA30007 = .ok (.red192 0x300 1000) := by decide

theorem witness_RejectionChangesErrOnly :
    Config.paramsInRange (pending [.write 0x803 0]).params ∧ (pending [.write 0x803 0]).engine = .idle
      ∧ (pending [.write 0x803 0]).host = [.write 0x803 0]
      ∧ submitCheck State.reset.params (cmdOfHalves 0 0 0 0) = .error .opc := by decide

theorem witness_AcceptanceLatchesCommand :
    Config.paramsInRange State.reset.params
      ∧ submitCheck State.reset.params (cmdOfHalves 0x1201 0x1040 0x0001 0x0000)
          = .ok (.addw 0x012 0x010 0x011 false) := by decide

theorem witness_StepRunsLatchedCommand :
    ((running 0 [.read 0x804]).engine = .busy ∧ (running 0 [.read 0x804]).cyclesLeft = 0
        ∧ (∀ rest, (running 0 [.read 0x804]).host ≠ .reset :: rest)
        ∧ decode (running 0 [.read 0x804]).latch = .ok (.addw 0x012 0x010 0x011 false))
      ∧ decodeTableWord 64 0x0000000110401201 = some (.addw 0x012 0x010 0x011 false) :=
  ⟨⟨rfl, rfl, by simp [running], by decide⟩, by decide⟩

theorem witness_IssuedCommandTakesEffect :
    Config.paramsInRange (pending (hostIssue 0x0000000110401201)).params
      ∧ (pending (hostIssue 0x0000000110401201)).engine = .idle
      ∧ (pending (hostIssue 0x0000000110401201)).host = hostIssue 0x0000000110401201
      ∧ submitCheck (pending (hostIssue 0x0000000110401201)).params 0x0000000110401201
          = .ok (.addw 0x012 0x010 0x011 false) := by decide

/-- The hypotheses of AcceptedCommandCompletes and StatusReadWhileBusy, with a transfer held and with none. -/
theorem witness_AcceptedCommandCompletes :
    (running 3 [.write 0x000 1]).Inv ∧ (running 3 [.write 0x000 1]).engine = .busy
      ∧ NoReset (running 3 [.write 0x000 1]) ∧ (running 0 []).Inv ∧ NoReset (running 0 []) := by decide

/-- A CARRY change and a GE change at completion. -/
theorem witness_FlagsWrittenByTheirCommandsOnly :
    (running 0 []).stepKind = .complete
      ∧ (after (step (running 0 []))).map (fun t => decide (t.carry ≠ (running 0 []).carry)) = some true
      ∧ (after (step ((loaded 0 [1] 1 [0]).withFetchWord 64 0x0000004010000006))).map (fun t => t.ge)
          = some true := by decide

/-- A host write, a completion and an aborting reset that change an OM word. -/
theorem witness_OmWordChangesOnlyByWrite :
    (after (step (pending [.write 0x3FF 7]))).map (fun t => decide (t.omWord 0x3FF ≠ 1)) = some true
      ∧ (after (step { running 0 [] with om := [(0x010, 1), (0x011, 1), (0x012, 7)] })).map
          (fun t => decide (t.omWord 0x012 ≠ 7)) = some true
      ∧ ∃ w : Word, w ≠ Config.freeWord 0 := by
  refine ⟨by decide, by decide, Config.freeWord 0 + 1, ?_⟩
  intro h
  have := congrArg (fun x => x - Config.freeWord 0) h
  simp [BitVec.add_comm] at this

/-- IDLE to BUSY at an acceptance, BUSY to IDLE at completion and at reset. -/
theorem witness_BusyTransitions :
    (after (step { written 0x0000000110401201 with host := [.write 0x803 0] })).map (fun t => t.engine)
        = some .busy
      ∧ (after (step (running 0 []))).map (fun t => t.engine) = some .idle
      ∧ (after (step (running 3 [.reset]))).map (fun t => t.engine) = some .idle := by decide

theorem witness_CommandRegistersWrittenByHostOnly :
    ([0x800, 0x801, 0x802, 0x803] : List HostAddr).map
        (fun h => (after (step (pending [.write h 0xFFFF]))).map fun t => t.cmd)
      = [some 0xFFFF, some 0xFFFF0000, some 0xFFFF00000000, some 0xFFFF000000000000] := by decide

theorem witness_ErrChangesOnlyAtSubmission :
    (pending [.write 0x803 0]).Inv ∧ (pending [.write 0x803 0]).stepKind ≠ .reset
      ∧ (after (step (pending [.write 0x803 0]))).map (fun t => t.err) = some .opc := by decide

/-- Two states that agree on the sources of ADDW and differ elsewhere. -/
theorem witness_ResultDependsOnSourcesOnly :
    let s := loaded 0x010 [0xFFFF] 0x011 [0x0001, 0x0007]
    let u := { loaded 0x010 [0xFFFF] 0x011 [0x0001, 0x0009] with carry := true, cmd0 := 5 }
    s.params = u.params ∧ (Instr.addw 0x012 0x010 0x011 false).wf s.params = true
      ∧ s.omWord 0x010 = u.omWord 0x010 ∧ s.omWord 0x011 = u.omWord 0x011 ∧ s.omWord 0x012 ≠ u.omWord 0x012
      ∧ (after (exec (.addw 0x012 0x010 0x011 false) s)).isSome = true
      ∧ (after (exec (.addw 0x012 0x010 0x011 false) u)).isSome = true := by decide

/-- The invariant idle, busy, and in the step that completes a command. -/
theorem witness_StepKeepsInv :
    (pending [.read 0x804]).Inv ∧ (running 3 [.reset]).Inv
      ∧ (after (step (running 0 []))).map (fun t => decide t.Inv) = some true := by decide

theorem witness_HostReadReturnsMappedWord :
    Config.paramsInRange (pending [.read 0x3FF]).params ∧ (pending [.read 0x3FF]).engine = .idle
      ∧ ([0x3FF, 0x400, 0x803, 0x804, 0xFFF] : List HostAddr).map
          (fun h => (after (step (pending [.read h]))).map fun t => t.hRdata)
        = [some (some 1), some (some 0), some (some 0), some (some 0), some (some 0)] := by decide

theorem witness_HostWriteStoresWord :
    Config.paramsInRange (pending [.write 0x3FF 9]).params ∧ (pending [.write 0x3FF 9]).engine = .idle
      ∧ (0x3FF : HostAddr).toNat < (pending [.write 0x3FF 9]).params.omWords
      ∧ ¬ (0x800 : HostAddr).toNat < (pending [.write 0x3FF 9]).params.omWords := by decide

/-- Unmapped addresses at the ends of both holes, and STATUS for the write. -/
theorem witness_UnmappedAccess :
    (State.reset.params.omWords ≤ (0x400 : HostAddr).toNat ∧ (0x400 : HostAddr).toNat ≤ 0x7FF)
      ∧ (State.reset.params.omWords ≤ (0x7FF : HostAddr).toNat ∧ (0x7FF : HostAddr).toNat ≤ 0x7FF)
      ∧ 0x805 ≤ (0xFFF : HostAddr).toNat ∧ 0x804 ≤ (0x804 : HostAddr).toNat := by decide

theorem witness_TransferHeldWhileBusy :
    (running 1 [.read 0x803]).engine = .busy ∧ (running 1 [.read 0x803]).cyclesLeft ≠ 0
      ∧ (0x803 : HostAddr) ≠ 0x804
      ∧ (after (step (running 1 [.write 0x804 1]))).map (fun t => (t.host, t.hReady))
        = some ([.write 0x804 1], false) := by decide

theorem witness_StatusReadWhileBusy :
    (running 1 [.read 0x804]).Inv ∧ (running 1 [.read 0x804]).engine = .busy
      ∧ (running 1 [.read 0x804]).cyclesLeft ≠ 0 := by decide

theorem witness_LoadWritesWords :
    Config.paramsInRange (pending (hostLoad 0x3FE [1, 2])).params
      ∧ (pending (hostLoad 0x3FE [1, 2])).engine = .idle
      ∧ (pending (hostLoad 0x3FE [1, 2])).host = [.write 0x3FE 1, .write 0x3FF 2]
      ∧ (0x3FE : HostAddr).toNat + ([1, 2] : List Word).length ≤ State.reset.params.omWords := by decide

theorem witness_ResetTakesResetValues :
    (pending [.reset, .read 0]).host = [.reset, .read 0] ∧ (pending [.reset]).engine = .idle := by decide

theorem witness_ResetAbortsCommand :
    (running 3 [.reset]).host = [.reset] ∧ (running 3 [.reset]).engine = .busy
      ∧ decode (running 3 [.reset]).latch = .ok (.addw 0x012 0x010 0x011 false)
      ∧ (Instr.addw 0x012 0x010 0x011 false).dstRange = some ⟨0x012, 1⟩ := by decide

end Sys2Proof.Tests.Slice0
end

section
/-! The modulus of the P-192 field: 00_scope.md R9 and R10. -/

namespace Sys2Proof.Machine

/-- R10: the special form of `p192`, as an equation of naturals that later reductions rewrite with. -/
theorem two_pow_192_eq_p192_add : 2 ^ 192 = p192 + (2 ^ 64 + 1) := by decide

theorem two_pow_64_add_one_lt_p192 : 2 ^ 64 + 1 < p192 := by decide

/-- R9: the value of `p192`. -/
theorem p192_eq_two_pow_sub : p192 = 2 ^ 192 - 2 ^ 64 - 1 := by
  have := two_pow_192_eq_p192_add
  omega

/-- R9: the twelve words of `p192`, least significant first. -/
theorem wordsOf_p192 :
    wordsOf 12 p192 = [0xFFFF, 0xFFFF, 0xFFFF, 0xFFFF, 0xFFFE, 0xFFFF, 0xFFFF, 0xFFFF, 0xFFFF, 0xFFFF,
      0xFFFF, 0xFFFF] := by decide

/-- R10: one multiple of `p192` goes out of `2 ^ 192`, and what stays is already below `p192`. -/
theorem two_pow_192_mod_p192 : 2 ^ 192 % p192 = 2 ^ 64 + 1 := by
  rw [two_pow_192_eq_p192_add, Nat.add_mod_left, Nat.mod_eq_of_lt two_pow_64_add_one_lt_p192]

/-- Settles O19, from the value and the words of `p192` and the residue its special form leaves. -/
theorem modulusOfP192 : Obligations.ModulusOfP192 :=
  ⟨p192_eq_two_pow_sub, wordsOf_p192, two_pow_192_mod_p192⟩

end Sys2Proof.Machine
end

section
/-! Lemmas of the state family: 10_state.md R16 to R27. What an accepted command's checks give, the bits of
STATUS, and what each kind of step does to the registers. -/

namespace Sys2Proof.Machine

variable {s t : State}

/-! ### Checks and the latched command -/

theorem decode_of_decodeTableWord {nbits w : Nat} {i : Instr} (h : decodeTableWord nbits w = some i) :
    decode (BitVec.ofNat 64 (w % 2 ^ nbits)) = .ok i := by
  unfold decodeTableWord at h
  split at h
  · next hd => rw [hd, Option.some.inj h]
  · cases h

theorem submitCheck_isOk {p : Params} {c : Cmd} (h : (submitCheck p c).isOk = true) :
    ∃ i, decode c = .ok i ∧ i.check p = .ok := by
  cases hc : submitCheck p c with
  | ok i => exact ⟨i, submitCheck_ok hc⟩
  | error code => rw [hc] at h; cases h

/-- In states of the invariant the latch of a BUSY engine is a command that passes all four checks (R84). -/
theorem State.Inv.latch_ok (hs : s.Inv) (hb : s.engine = .busy) :
    ∃ i, decode s.latch = .ok i ∧ i.check s.params = .ok := by
  obtain ⟨-, -, -, hbusy, -⟩ := hs
  obtain ⟨-, -, hok⟩ := hbusy hb
  exact submitCheck_isOk hok

/-- R19: in states of the invariant ERR is 0 while BUSY. -/
theorem State.Inv.err_ok (hs : s.Inv) (hb : s.engine = .busy) : s.err = .ok := by
  obtain ⟨-, -, -, hbusy, -⟩ := hs
  obtain ⟨-, herr, -⟩ := hbusy hb
  exact herr

/-- R85: the destination of a command that passes its checks lies in OM. -/
theorem dstRange_covers_lt {i : Instr} {p : Params} {r : OmRange} {a : Nat} (hc : i.check p = .ok)
    (hr : i.dstRange = some r) (ha : r.covers a) : a < p.omWords := by
  obtain ⟨-, hfit⟩ := check_ok_iff.1 hc
  exact Nat.lt_of_lt_of_le ha.2 (hfit r (by simp [Instr.operands, hr]))

theorem latchedDst_eq {i : Instr} (h : decode s.latch = .ok i) : s.latchedDst = i.dstRange := by
  simp [State.latchedDst, h]

/-! ### What a step does to the registers -/

theorem IdleStepTo.flags (h : IdleStepTo s t) : t.carry = s.carry ∧ t.ge = s.ge := by
  cases h <;> exact ⟨rfl, rfl⟩

/-- R84: an idle engine becomes BUSY only by a CMD3 write that submits a command passing every check. -/
theorem IdleStepTo.submitted_of_busy (h : IdleStepTo s t) (hi : s.engine = .idle) (hb : t.engine = .busy) :
    ∃ v rest i, s.host = .write 0x803 v :: rest
      ∧ submitCheck s.params (cmdOfHalves s.cmd0 s.cmd1 s.cmd2 v) = .ok i := by
  cases h with
  | accepted hw hc => exact ⟨_, _, _, hw, hc⟩
  | rejected => cases hb
  | quiet | wait | read | om | cmd0 | cmd1 | cmd2 | ignored => exact nomatch hi.symm.trans hb

theorem IdleStepTo.err_eq_or_cmd3_write (h : IdleStepTo s t) :
    t.err = s.err ∨ ∃ v rest, s.host = .write 0x803 v :: rest := by
  cases h with
  | rejected hw | accepted hw => exact .inr ⟨_, _, hw⟩
  | quiet | wait | read | om | cmd0 | cmd1 | cmd2 | ignored => exact .inl rfl

/-- R17: what a host action on an idle engine can do to the command registers. -/
theorem IdleStepTo.cmd_eq_or_write (h : IdleStepTo s t) :
    (t.cmd0 = s.cmd0 ∨ ∃ rest, s.host = .write 0x800 t.cmd0 :: rest)
      ∧ (t.cmd1 = s.cmd1 ∨ ∃ rest, s.host = .write 0x801 t.cmd1 :: rest)
      ∧ (t.cmd2 = s.cmd2 ∨ ∃ rest, s.host = .write 0x802 t.cmd2 :: rest)
      ∧ (t.cmd3 = s.cmd3 ∨ ∃ rest, s.host = .write 0x803 t.cmd3 :: rest) := by
  cases h with
  | cmd0 hw => exact ⟨.inr ⟨_, hw⟩, .inl rfl, .inl rfl, .inl rfl⟩
  | cmd1 hw => exact ⟨.inl rfl, .inr ⟨_, hw⟩, .inl rfl, .inl rfl⟩
  | cmd2 hw => exact ⟨.inl rfl, .inl rfl, .inr ⟨_, hw⟩, .inl rfl⟩
  | rejected hw | accepted hw => exact ⟨.inl rfl, .inl rfl, .inl rfl, .inr ⟨_, hw⟩⟩
  | quiet | wait | read | om | ignored => exact ⟨.inl rfl, .inl rfl, .inl rfl, .inl rfl⟩

/-- A cycle of a running command keeps every register that STATUS and CMD0 to CMD3 show, and stays BUSY. -/
theorem busyStep_registers (s : State) :
    s.busyStep.engine = s.engine ∧ s.busyStep.carry = s.carry ∧ s.busyStep.ge = s.ge ∧ s.busyStep.err = s.err
      ∧ s.busyStep.cmd0 = s.cmd0 ∧ s.busyStep.cmd1 = s.cmd1 ∧ s.busyStep.cmd2 = s.cmd2
      ∧ s.busyStep.cmd3 = s.cmd3 := by
  obtain ⟨host, ready, rdata, -, -, h⟩ := busyStep_frame s
  simp [h]

/-- R17: but for a reset, a step changes no command register unless it is a host action on an idle engine. -/
theorem step_cmd_eq_or_idleStepTo (h : step s = .next t) (hr : s.stepKind ≠ .reset) :
    (t.cmd0 = s.cmd0 ∧ t.cmd1 = s.cmd1 ∧ t.cmd2 = s.cmd2 ∧ t.cmd3 = s.cmd3)
      ∨ s.engine = .idle ∧ IdleStepTo s t := by
  rcases step_cases h with ⟨hk, -⟩ | ⟨hk, rfl⟩ | ⟨-, rfl⟩ | ⟨-, i, -, he⟩ | ⟨-, code, -, rfl⟩
  · exact absurd hk hr
  · exact .inr ⟨engine_of_stepKind_host hk, idleStep_cases s⟩
  · obtain ⟨-, -, -, -, hcmd⟩ := busyStep_registers s
    exact .inl hcmd
  · obtain ⟨h0, h1, h2, h3, -⟩ := (exec_frame he).control
    exact .inl ⟨h0, h1, h2, h3⟩
  · exact .inl ⟨rfl, rfl, rfl, rfl⟩

/-! ### STATUS -/

theorem busyBit_eq (s : State) : s.busyBit = decide (s.engine = .busy) := by
  unfold State.busyBit
  split <;> simp [*]

/-- Bit `k` of a field placed at bit `j` of a register of any width. -/
theorem setWidth_shiftLeft_getLsbD {w n : Nat} (x : BitVec w) {j k : Nat} (hk : k < n) :
    (x.setWidth n <<< j).getLsbD k = (decide (j ≤ k) && x.getLsbD (k - j)) := by
  by_cases h : j ≤ k
  · simp [hk, h, Nat.not_lt.2 h]
  · simp [hk, h, Nat.not_le.1 h]

/-- Every bit of STATUS, in the order of R18. -/
theorem statusWord_getLsbD (s : State) {k : Nat} (hk : k < 16) :
    s.statusWord.getLsbD k =
      ((BitVec.ofBool s.busyBit).getLsbD k || (decide (1 ≤ k) && (BitVec.ofBool s.carry).getLsbD (k - 1))
        || (decide (2 ≤ k) && (BitVec.ofBool s.ge).getLsbD (k - 2))
        || (decide (4 ≤ k) && s.err.bits.getLsbD (k - 4))) := by
  simp only [State.statusWord, BitVec.getLsbD_or, setWidth_shiftLeft_getLsbD _ hk,
    BitVec.getLsbD_setWidth, hk, decide_true, Bool.true_and]

/-- R22: codes 5 to 15 are never produced. -/
theorem errBits_le (e : ErrCode) : e.bits.toNat ≤ 4 := by
  cases e <;> decide

/-- From bit 4 up, STATUS shows the code of ERR alone. -/
theorem statusWord_getLsbD_of_four_le (s : State) {k : Nat} (hk4 : 4 ≤ k) (hk : k < 16) :
    s.statusWord.getLsbD k = s.err.bits.getLsbD (k - 4) := by
  have hflag : ∀ b j, j ≤ 2 → (BitVec.ofBool b).getLsbD (k - j) = false := fun b j hj =>
    BitVec.getLsbD_of_ge _ _ (by omega)
  have hbusy : (BitVec.ofBool s.busyBit).getLsbD k = false := hflag s.busyBit 0 (by omega)
  simp [statusWord_getLsbD s hk, hbusy, hflag s.carry 1, hflag s.ge 2, hk4]

theorem statusWord_errField (s : State) : s.statusWord.extractLsb' 4 4 = s.err.bits := by
  ext k hk
  rw [BitVec.getElem_extractLsb', statusWord_getLsbD_of_four_le s (by omega) (by omega), Nat.add_sub_cancel_left,
    BitVec.getLsbD_eq_getElem hk]

theorem statusWord_reservedField (s : State) : s.statusWord.extractLsb' 8 8 = 0 := by
  ext k hk
  rw [BitVec.getElem_extractLsb', statusWord_getLsbD_of_four_le s (by omega) (by omega),
    BitVec.getLsbD_of_ge _ _ (by omega)]
  exact (BitVec.getElem_zero hk).symm

end Sys2Proof.Machine
end

section
/-! The invariant of every step: one lemma a kind of step. -/

namespace Sys2Proof.Machine

variable {s t : State}

/-- The invariant of an idle engine: its clause about the latch asks nothing. -/
theorem State.Inv.of_idle (hi : t.engine = .idle) (hp : Config.paramsInRange t.params) (hw : t.om.wf)
    (hm : ∀ x ∈ t.om, x.1 < t.params.omWords) (hd : t.hRdata ≠ none → t.hReady = true) : t.Inv :=
  ⟨hp, hw, hm, fun hb => (nomatch hi.symm.trans hb), hd⟩

theorem State.Inv.quiet (hs : s.Inv) : s.quiet.Inv := by
  obtain ⟨hp, hw, hm, hb, -⟩ := hs
  exact ⟨hp, hw, hm, hb, fun hd => absurd rfl hd⟩

theorem State.Inv.reject (hs : s.Inv) (code : ErrCode) : (s.reject code).Inv := by
  obtain ⟨hp, hw, hm, -, hd⟩ := hs
  exact .of_idle rfl hp hw hm hd

theorem IdleStepTo.keeps_inv (h : IdleStepTo s t) (hi : s.engine = .idle) (hs : s.Inv) : t.Inv := by
  obtain ⟨hp, hw, hm, -, -⟩ := hs
  cases h with
  | quiet | wait => exact .of_idle hi hp hw hm fun hd => absurd rfl hd
  | read | cmd0 | cmd1 | cmd2 | ignored => exact .of_idle hi hp hw hm fun _ => rfl
  | om _ ha =>
    refine .of_idle hi hp (Memory.wf_set hw _ _) (fun x hx => ?_) fun _ => rfl
    rcases Memory.mem_set hx with rfl | hx
    · exact ha
    · exact hm x hx
  | rejected => exact .of_idle rfl hp hw hm fun _ => rfl
  | accepted _ hc =>
    exact ⟨hp, hw, hm, fun _ => ⟨rfl, rfl, by simp [hc, Except.isOk, Except.toBool]⟩, fun _ => rfl⟩

theorem State.Inv.busyStep (hs : s.Inv) : s.busyStep.Inv := by
  obtain ⟨hp, hw, hm, hb, -⟩ := hs
  obtain ⟨host, ready, rdata, hd, -, h⟩ := busyStep_frame s
  rw [h]
  exact ⟨hp, hw, hm, hb, hd⟩

/-- The completion of a command, or its rejection, from any state of the invariant: the words it stores lie in
OM, since its checks passed. -/
theorem exec_keeps_inv {i : Instr} (h : exec i s = .next t) (hs : s.Inv) : t.Inv := by
  obtain ⟨hp, hw, hm, -, hd⟩ := hs
  have hf := exec_frame h
  obtain ⟨-, -, -, -, -, -, hparams, -, hready, hrdata, -⟩ := hf.control
  refine .of_idle hf.engine (hparams ▸ hp) (hf.wf hw) (fun x hx => ?_) (by rwa [hready, hrdata])
  rw [hparams]
  rcases hf.mem x hx with hx | ⟨hc, r, hr, ha⟩
  · exact hm x hx
  · exact dstRange_covers_lt hc hr ha

/-- Everything an abort can do to OM (R97): nothing, or free words over the latched destination. -/
theorem abortWrites_cases (s : State) :
    s.abortWrites = s ∨ s.engine = .busy ∧ ∃ r, s.latchedDst = some r ∧ s.abortWrites = { s with
      om := s.om.setWords r.base ((List.range r.len).map fun k => Config.freeWord (s.draws + k))
      draws := s.draws + r.len } := by
  unfold State.abortWrites
  split
  · next r hb hr => exact .inr ⟨hb, r, hr, rfl⟩
  · exact .inl rfl

/-- An abort keeps the invariant: the destination of an accepted command lies in OM. -/
theorem State.Inv.abortWrites (hs : s.Inv) : s.abortWrites.Inv := by
  rcases abortWrites_cases s with h | ⟨hb, r, hr, h⟩
  · rwa [h]
  · obtain ⟨i, hi, hc⟩ := hs.latch_ok hb
    obtain ⟨hp, hw, hm, hlatch, hd⟩ := hs
    rw [h]
    refine ⟨hp, Memory.wf_setWords _ hw _, fun x hx => ?_, hlatch, hd⟩
    rcases Memory.mem_setWords hx with ha | hx
    · exact dstRange_covers_lt hc (latchedDst_eq hi ▸ hr) (by simpa using ha)
    · exact hm x hx

theorem State.Inv.resetStep (hs : s.Inv) : s.resetStep.Inv := by
  obtain ⟨hp, hw, hm, -, -⟩ := hs.abortWrites
  exact .of_idle rfl hp hw hm fun hd => absurd rfl hd

/-- Settles O49, one kind of step at a time. -/
theorem stepKeepsInv : Obligations.StepKeepsInv := by
  intro s t hs h
  rcases step_cases h with ⟨-, rfl⟩ | ⟨hk, rfl⟩ | ⟨-, rfl⟩ | ⟨-, i, -, he⟩ | ⟨-, code, -, rfl⟩
  · exact hs.resetStep
  · exact (idleStep_cases s).keeps_inv (engine_of_stepKind_host hk) hs
  · exact hs.busyStep
  · exact exec_keeps_inv he hs.quiet
  · exact hs.quiet.reject code

/-- Settles O50: nothing is listed in OM, and the engine is idle. -/
theorem resetHasInv : Obligations.ResetHasInv :=
  .of_idle rfl (by decide) .nil (fun _ hx => nomatch hx) fun hd => absurd rfl hd

end Sys2Proof.Machine
end

section
/-! The state family's statements about the registers and STATUS. -/

namespace Sys2Proof.Machine

/-- Settles O43: of the kinds of step, only a completion writes a flag, and its frame names the commands. -/
theorem flagsWrittenByTheirCommandsOnly : Obligations.FlagsWrittenByTheirCommandsOnly := by
  intro s t h hr
  rcases step_cases h with ⟨hk, -⟩ | ⟨-, rfl⟩ | ⟨-, rfl⟩ | ⟨hk, i, hi, he⟩ | ⟨-, code, -, rfl⟩
  · exact absurd hk hr
  · obtain ⟨hcarry, hge⟩ := (idleStep_cases s).flags
    exact ⟨absurd hcarry, absurd hge⟩
  · obtain ⟨-, hcarry, hge, -⟩ := busyStep_registers s
    exact ⟨absurd hcarry, absurd hge⟩
  · have hf := exec_frame he
    refine ⟨fun hne => ?_, fun hne => ?_⟩
    · obtain ⟨hc, hop⟩ := hf.carry.resolve_left hne
      exact ⟨hk, i, hi, (Instr.wf_iff_check _ _).2 hc, hop⟩
    · obtain ⟨hc, hop⟩ := hf.ge.resolve_left hne
      exact ⟨hk, i, hi, (Instr.wf_iff_check _ _).2 hc, hop⟩
  · exact ⟨absurd rfl, absurd rfl⟩

/-- Settles O45: BUSY is entered in a host action alone, and a cycle of a running command does not leave it. -/
theorem busyTransitions : Obligations.BusyTransitions := by
  intro s t h
  rcases step_cases h with ⟨hk, rfl⟩ | ⟨hk, rfl⟩ | ⟨hk, rfl⟩ | ⟨hk, -⟩ | ⟨hk, -⟩
  · exact ⟨fun _ hb => (nomatch hb), fun _ _ => .inr hk⟩
  · have hi := engine_of_stepKind_host hk
    exact ⟨(idleStep_cases s).submitted_of_busy, fun hb => (nomatch hi.symm.trans hb)⟩
  · have hb := (engine_of_stepKind_busy hk).1
    obtain ⟨hengine, -⟩ := busyStep_registers s
    exact ⟨fun hi => (nomatch hi.symm.trans hb), fun _ hi => (nomatch hi.symm.trans (hengine.trans hb))⟩
  all_goals
    have hb := (engine_of_stepKind_complete hk).1
    exact ⟨fun hi => (nomatch hi.symm.trans hb), fun _ _ => .inl hk⟩

/-- Settles O46: only a host action on an idle engine changes a command register, and each has its address. -/
theorem commandRegistersWrittenByHostOnly : Obligations.CommandRegistersWrittenByHostOnly := by
  intro s t h hr
  rcases step_cmd_eq_or_idleStepTo h hr with ⟨h0, h1, h2, h3⟩ | ⟨hi, hto⟩
  · exact ⟨absurd h0, absurd h1, absurd h2, absurd h3⟩
  · obtain ⟨h0, h1, h2, h3⟩ := hto.cmd_eq_or_write
    exact ⟨fun hne => ⟨hi, h0.resolve_left hne⟩, fun hne => ⟨hi, h1.resolve_left hne⟩,
      fun hne => ⟨hi, h2.resolve_left hne⟩, fun hne => ⟨hi, h3.resolve_left hne⟩⟩

/-- Settles O47: by the invariant ERR is 0 while BUSY and the latched command passes every check, so its
completion leaves ERR at 0. -/
theorem errChangesOnlyAtSubmission : Obligations.ErrChangesOnlyAtSubmission := by
  intro s t hs h hne hr
  rcases step_cases h with ⟨hk, -⟩ | ⟨hk, rfl⟩ | ⟨-, rfl⟩ | ⟨hk, i, hi, he⟩ | ⟨hk, code, hc, -⟩
  · exact absurd hk hr
  · exact ⟨engine_of_stepKind_host hk, (idleStep_cases s).err_eq_or_cmd3_write.resolve_left hne⟩
  · obtain ⟨-, -, -, hkept, -⟩ := busyStep_registers s
    exact absurd hkept hne
  · have hb := (engine_of_stepKind_complete hk).1
    obtain ⟨j, hj, hcheck⟩ := hs.latch_ok hb
    obtain rfl : i = j := Except.ok.inj (hi.symm.trans hj)
    exact absurd ((exec_frame he).err.trans (hcheck.trans (hs.err_ok hb).symm)) hne
  · obtain ⟨j, hj, -⟩ := hs.latch_ok (engine_of_stepKind_complete hk).1
    exact nomatch hc.symm.trans hj

/-- Settles O39: `withFetchWord` leaves a BUSY engine in its last cycle with no action pending. -/
theorem stepRunsLatchedCommand : Obligations.StepRunsLatchedCommand :=
  ⟨fun _ _ he hc hr hd => step_complete he hc hr hd,
    fun _ _ _ hw => step_complete rfl rfl (fun _ h => nomatch h) (decode_of_decodeTableWord hw)⟩

/-- Settles O56, from the bits of the STATUS word. -/
theorem statusFields : Obligations.StatusFields := by
  intro s
  refine ⟨?_, ?_, ?_, ?_, statusWord_errField s, errBits_le s.err, statusWord_reservedField s⟩
  all_goals rw [statusWord_getLsbD s (by decide)]
  · simp [busyBit_eq]
  all_goals simp

/-- Settles O60: each register of the reset state is its value in R27. -/
theorem resetState : Obligations.ResetState :=
  ⟨rfl, rfl, rfl, rfl, rfl, rfl, rfl, rfl, by decide, rfl⟩

end Sys2Proof.Machine
end

section
/-! Lemmas of the memory family: 20_memory.md R29 to R40. The host address map by ranges of addresses, one
equation a kind of transfer, and what each kind of step does to a word of OM. -/

namespace Sys2Proof.Machine

variable {s t : State} {h : HostAddr} {v : Word} {rest : List HostAction}

/-! ### The host address map (R32) -/

theorem hostTarget_of_lt {p : Params} (hlt : h.toNat < p.omWords) : hostTarget p h = .om h.toNat := by
  simp [hostTarget, hlt]

/-- The two holes of R32, between OM and the registers and above STATUS. -/
theorem hostTarget_unmapped {p : Params} (hp : Config.paramsInRange p)
    (hu : (p.omWords ≤ h.toNat ∧ h.toNat ≤ 0x7FF) ∨ 0x805 ≤ h.toNat) : hostTarget p h = .unmapped := by
  obtain ⟨⟨-, hmax⟩, -⟩ := hp
  have hom : ¬ h.toNat < p.omWords := by omega
  have hreg : h.toNat ≤ 0x7FF ∨ 0x805 ≤ h.toNat := by omega
  unfold hostTarget
  rw [if_neg hom, if_neg (by omega), if_neg (by omega), if_neg (by omega), if_neg (by omega), if_neg (by omega)]

/-- The addresses whose writes R33 ignores: the two holes, and STATUS. -/
theorem hostTarget_not_writable {p : Params} (hp : Config.paramsInRange p)
    (hu : (p.omWords ≤ h.toNat ∧ h.toNat ≤ 0x7FF) ∨ 0x804 ≤ h.toNat) :
    hostTarget p h = .unmapped ∨ hostTarget p h = .status := by
  by_cases hst : h.toNat = 0x804
  · obtain rfl : h = 0x804 := BitVec.eq_of_toNat_eq hst
    obtain ⟨-, -, -, -, hstatus⟩ := hostTarget_registers hp
    exact .inr hstatus
  · exact .inl (hostTarget_unmapped hp (by omega))

/-- Whatever the parameters, no other address is STATUS. -/
theorem hostTarget_ne_status {p : Params} (hne : h ≠ 0x804) : hostTarget p h ≠ .status := by
  have hne' : h.toNat ≠ 0x804 := fun heq => hne (BitVec.eq_of_toNat_eq heq)
  simp only [hostTarget, if_neg hne']
  repeat' split
  all_goals exact nofun

/-! ### Transfers of an idle engine (R31) -/

/-- R31 to R33: the word a host read returns, by address. -/
theorem hostRead_eq (s : State) (h : HostAddr) :
    s.hostRead h =
      if h.toNat < s.params.omWords then s.omWord h.toNat
      else if h = 0x800 then s.cmd0
      else if h = 0x801 then s.cmd1
      else if h = 0x802 then s.cmd2
      else if h = 0x803 then s.cmd3
      else if h = 0x804 then s.statusWord
      else 0 := by
  have haddr : ∀ k : HostAddr, h = k ↔ h.toNat = k.toNat := fun _ => BitVec.toNat_inj.symm
  simp only [haddr, BitVec.reduceToNat, State.hostRead, hostTarget]
  split_ifs <;> rfl

theorem step_idle_read (he : s.engine = .idle) (hh : s.host = .read h :: rest) :
    step s = .next (s.readDone (s.hostRead h) rest) := by
  rw [step_idle he (by simp [hh]), State.idleStep, hh]

theorem step_idle_write (he : s.engine = .idle) (hh : s.host = .write h v :: rest) :
    step s = .next (State.hostWrite { s with hReady := true, hRdata := none, host := rest } h v) := by
  rw [step_idle he (by simp [hh]), State.idleStep, hh]

theorem hostWrite_om (hlt : h.toNat < s.params.omWords) :
    s.hostWrite h v = { s with om := s.om.set h.toNat v } := by
  simp [State.hostWrite, hostTarget_of_lt hlt]

theorem hostWrite_cmd0 (ht : hostTarget s.params h = .cmd0) : s.hostWrite h v = { s with cmd0 := v } := by
  simp [State.hostWrite, ht]

theorem hostWrite_cmd1 (ht : hostTarget s.params h = .cmd1) : s.hostWrite h v = { s with cmd1 := v } := by
  simp [State.hostWrite, ht]

theorem hostWrite_cmd2 (ht : hostTarget s.params h = .cmd2) : s.hostWrite h v = { s with cmd2 := v } := by
  simp [State.hostWrite, ht]

/-- R33: a write to STATUS or to an unmapped address is ignored. -/
theorem hostWrite_ignored (ht : hostTarget s.params h = .unmapped ∨ hostTarget s.params h = .status) :
    s.hostWrite h v = s := by
  rcases ht with ht | ht <;> simp [State.hostWrite, ht]

/-! ### Transfers while BUSY (R40) -/

theorem busyStep_write (hh : s.host = .write h v :: rest) : s.busyStep = s.tick.quiet := by
  rw [State.busyStep, hh]

theorem busyStep_read_held (hh : s.host = .read h :: rest) (ht : hostTarget s.params h ≠ .status) :
    s.busyStep = s.tick.quiet := by
  simp [State.busyStep, hh, ht]

theorem busyStep_read_status (hh : s.host = .read h :: rest) (ht : hostTarget s.params h = .status) :
    s.busyStep = s.tick.readDone s.statusWord rest := by
  simp [State.busyStep, hh, ht]

/-- R18, R19: STATUS of a BUSY engine with ERR 0 is BUSY and the two flags. -/
theorem statusWord_of_busy (he : s.engine = .busy) (herr : s.err = .ok) :
    s.statusWord = BitVec.ofNat 16 (1 + 2 * s.carry.toNat + 4 * s.ge.toNat) := by
  simp only [State.statusWord, State.busyBit, he, herr]
  cases s.carry <;> cases s.ge <;> decide

/-! ### What a step does to a word of OM (R29) -/

/-- A host action on an idle engine changes a word of OM only by a write to its address. -/
theorem IdleStepTo.omWord_eq_or_write (hto : IdleStepTo s t) (a : Nat) :
    t.omWord a = s.omWord a
      ∨ ∃ h v rest, s.host = .write h v :: rest ∧ h.toNat = a ∧ a < s.params.omWords ∧ t.omWord a = v := by
  cases hto with
  | @om h v rest hw hlt =>
    by_cases ha : h.toNat = a
    · exact .inr ⟨h, v, rest, hw, ha, ha ▸ hlt, by simp [ha]⟩
    · exact .inl (by simp [ha])
  | quiet | wait | read | cmd0 | cmd1 | cmd2 | rejected | accepted | ignored => exact .inl rfl

theorem busyStep_omWord (s : State) (a : Nat) : s.busyStep.omWord a = s.omWord a := by
  obtain ⟨host, ready, rdata, -, -, hstep⟩ := busyStep_frame s
  simp [hstep]

theorem decode_of_latchedDst {r : OmRange} (hr : s.latchedDst = some r) :
    ∃ i, decode s.latch = .ok i ∧ i.dstRange = some r := by
  unfold State.latchedDst at hr
  split at hr
  · next i hi => exact ⟨i, hi, hr⟩
  · cases hr

/-- R97: a reset changes a word of OM only where it aborts a command whose destination covers the word. -/
theorem resetStep_omWord_eq_or_aborted (s : State) (a : Nat) :
    s.resetStep.omWord a = s.omWord a
      ∨ s.engine = .busy ∧ ∃ i r, decode s.latch = .ok i ∧ i.dstRange = some r ∧ r.covers a := by
  have hom : s.resetStep.omWord a = s.abortWrites.omWord a := rfl
  rcases abortWrites_cases s with hsame | ⟨hb, r, hr, habort⟩
  · exact .inl (by rw [hom, hsame])
  · by_cases ha : r.covers a
    · obtain ⟨i, hi, hd⟩ := decode_of_latchedDst hr
      exact .inr ⟨hb, i, r, hi, hd, ha⟩
    · left
      rw [hom, habort]
      exact Memory.word_setWords_outside _ s.om r.base a (by simpa using ha)

end Sys2Proof.Machine
end

section
/-! The memory family's statements: what changes a word of OM, and the transfers of the host port. -/

namespace Sys2Proof.Machine

/-- Settles O44: of the kinds of step, only an OM write, an abort and a completion store a word, each inside its
own range. -/
theorem omWordChangesOnlyByWrite : Obligations.OmWordChangesOnlyByWrite := by
  intro s t a hstep hne
  rcases step_cases hstep with ⟨hk, rfl⟩ | ⟨hk, rfl⟩ | ⟨-, rfl⟩ | ⟨hk, i, hi, he⟩ | ⟨-, code, -, rfl⟩
  · obtain ⟨hb, hdst⟩ := (resetStep_omWord_eq_or_aborted s a).resolve_left hne
    exact .inr ⟨hb, .inr hk, hdst⟩
  · exact .inl ⟨engine_of_stepKind_host hk, ((idleStep_cases s).omWord_eq_or_write a).resolve_left hne⟩
  · exact absurd (busyStep_omWord s a) hne
  · obtain ⟨-, r, hr, ha⟩ := ((exec_frame he).word a).resolve_left hne
    exact .inr ⟨(engine_of_stepKind_complete hk).1, .inl hk, i, r, hi, hr, ha⟩
  · exact absurd rfl hne

/-- Settles O51, from the word a read returns at each address. -/
theorem hostReadReturnsMappedWord : Obligations.HostReadReturnsMappedWord := by
  intro s h rest _ he hh
  rw [step_idle_read he hh, hostRead_eq]
  rfl

/-- Settles O52, from the address map and the law of one stored word. -/
theorem hostWriteStoresWord : Obligations.HostWriteStoresWord := by
  intro s h v rest hp he hh
  obtain ⟨h0, h1, h2, -, -⟩ := hostTarget_registers hp
  rw [step_idle_write he hh]
  refine ⟨fun hlt => ⟨s.om.set h.toNat v, congrArg _ (hostWrite_om hlt), fun a => ?_⟩, ?_, ?_, ?_⟩
  · simp [eq_comm (a := a)]
  · exact fun hx => congrArg _ (hostWrite_cmd0 (hx ▸ h0))
  · exact fun hx => congrArg _ (hostWrite_cmd1 (hx ▸ h1))
  · exact fun hx => congrArg _ (hostWrite_cmd2 (hx ▸ h2))

/-- Settles O53: the holes of the address map read 0, and they and STATUS ignore a write. -/
theorem unmappedAccess : Obligations.UnmappedAccess := by
  intro s h v rest hp he
  refine ⟨fun hu hh => ?_, fun hu hh => ?_⟩
  · rw [step_idle_read he hh, State.hostRead, hostTarget_unmapped hp hu]
    rfl
  · rw [step_idle_write he hh]
    exact congrArg _ (hostWrite_ignored (hostTarget_not_writable hp hu))

/-- Settles O54: of the transfers only a STATUS read is served in a cycle of a running command. -/
theorem transferHeldWhileBusy : Obligations.TransferHeldWhileBusy := by
  intro s x rest he hc hh hx
  have hheld : s.busyStep = s.tick.quiet := by
    rcases hx with ⟨h, v, rfl⟩ | ⟨h, rfl, hne⟩
    · exact busyStep_write hh
    · exact busyStep_read_held hh (hostTarget_ne_status hne)
  have hr : ∀ rest', s.host ≠ .reset :: rest' := by
    rcases hx with ⟨h, v, rfl⟩ | ⟨h, rfl, -⟩ <;> simp [hh]
  rw [step_busy he hc hr, hheld]
  rfl

/-- Settles O55: by the invariant ERR is 0 while BUSY, so STATUS shows BUSY and the two flags alone. -/
theorem statusReadWhileBusy : Obligations.StatusReadWhileBusy := by
  intro s rest hs he hc hh
  obtain ⟨-, -, -, -, hstatus⟩ := hostTarget_registers hs.1
  rw [step_busy he hc (by simp [hh]), busyStep_read_status hh hstatus, statusWord_of_busy he (hs.err_ok he)]
  rfl

end Sys2Proof.Machine
end

section
/-! Lemmas of the encoding family: 30_encoding.md R45 to R55. A field placed in a command and taken out of it
again, R48's table as a mask, and each answer of the decoder. -/

namespace Sys2Proof

/-! ### A field in its window of the command (R46) -/

theorem placed_extractLsb'_same {w : Nat} (x : BitVec w) {j : Nat} (hj : j + w ≤ 64) :
    (x.setWidth 64 <<< j).extractLsb' j w = x := by
  ext k hk
  rw [BitVec.getElem_extractLsb', placed_getLsbD x (by omega), Nat.add_sub_cancel_left,
    BitVec.getLsbD_eq_getElem hk]
  simp

theorem placed_extractLsb'_disjoint {w' : Nat} (x : BitVec w') {j j' w : Nat} (hj : j + w ≤ 64)
    (hd : j' + w' ≤ j ∨ j + w ≤ j') : (x.setWidth 64 <<< j').extractLsb' j w = 0#w := by
  ext k hk
  rw [BitVec.getElem_extractLsb', placed_getLsbD x (by omega)]
  rcases hd with hd | hd
  · simp [BitVec.getLsbD_of_ge x (j + k - j') (by omega)]
  · simp [show ¬ j' ≤ j + k by omega]

/-- A window of a command, put back in its place, keeps the command's bits there and clears the others. -/
theorem placed_extractLsb'_getLsbD (c : Cmd) {j w k : Nat} (hk : k < 64) :
    ((c.extractLsb' j w).setWidth 64 <<< j).getLsbD k = (decide (j ≤ k ∧ k < j + w) && c.getLsbD k) := by
  rw [placed_getLsbD _ hk, BitVec.getLsbD_extractLsb']
  by_cases hj : j ≤ k
  · simp [hj, show k - j < w ↔ k < j + w by omega]
  · simp [hj]

theorem extractLsb'_eq_zero_iff {n : Nat} (x : BitVec n) (j w : Nat) :
    x.extractLsb' j w = 0 ↔ ∀ k, j ≤ k → k < j + w → x.getLsbD k = false := by
  constructor
  · intro h k hj hk
    have hbit := congrArg (BitVec.getLsbD · (k - j)) h
    simpa [BitVec.getLsbD_extractLsb', show k - j < w by omega, show j + (k - j) = k by omega] using hbit
  · intro h
    ext k hk
    simp [h (j + k) (by omega) (by omega)]

/-- The formula of R46 with every field at its bit number, OPC included. -/
theorem packFields_eq_placed (op : Opcode) (cin : Bool) (d a b : OmAddr) (n : WordLen) :
    packFields op cin d a b n = op.code.setWidth 64 <<< 0 ||| ((BitVec.ofBool cin).setWidth 64 <<< 5)
      ||| (d.setWidth 64 <<< 8) ||| (a.setWidth 64 <<< 18) ||| (b.setWidth 64 <<< 28)
      ||| (n.setWidth 64 <<< 38) := by
  rw [packFields, BitVec.shiftLeft_zero]

theorem cmdOfHalves_eq_placed (w0 w1 w2 w3 : Word) :
    cmdOfHalves w0 w1 w2 w3 = w0.setWidth 64 <<< 0 ||| (w1.setWidth 64 <<< 16) ||| (w2.setWidth 64 <<< 32)
      ||| (w3.setWidth 64 <<< 48) := by
  rw [cmdOfHalves, BitVec.shiftLeft_zero]

theorem ofBool_cmdCin (c : Cmd) : BitVec.ofBool (cmdCin c) = c.extractLsb' 5 1 := by
  ext k hk
  simp [cmdCin, show k = 0 by omega]

/-- R48's unused bits, by the fields they lie in. -/
theorem unusedBitsZero_iff_fields (op : Opcode) (c : Cmd) : UnusedBitsZero op c ↔
    c.extractLsb' 6 2 = 0 ∧ c.extractLsb' 44 20 = 0
      ∧ (op ∉ [.addw, .subw] → cmdCin c = false)
      ∧ (op = .cmpmp → cmdDst c = 0)
      ∧ (op = .red192 → cmdSrcB c = 0)
      ∧ (op ∉ [.addmp, .submp, .mulmp, .cmpmp, .expmp] → cmdN c = 0) := Iff.rfl

section PackedFields

variable (op : Opcode) (cin : Bool) (d a b : OmAddr) (n : WordLen)

/-- R46: each field is taken out of a packed command as it was put in. -/
@[simp] theorem fields_packFields : cmdOpc (packFields op cin d a b n) = op.code
    ∧ cmdDst (packFields op cin d a b n) = d ∧ cmdSrcA (packFields op cin d a b n) = a
    ∧ cmdSrcB (packFields op cin d a b n) = b ∧ cmdN (packFields op cin d a b n) = n := by
  refine ⟨?_, ?_, ?_, ?_, ?_⟩
  all_goals simp (disch := omega) only [cmdOpc, cmdDst, cmdSrcA, cmdSrcB, cmdN, packFields_eq_placed,
    BitVec.extractLsb'_or, placed_extractLsb'_same, placed_extractLsb'_disjoint, BitVec.zero_or, BitVec.or_zero]

@[simp] theorem cmdCin_packFields : cmdCin (packFields op cin d a b n) = cin := by
  rw [cmdCin, packFields_getLsbD op cin d a b n 5 (by decide)]
  simp

/-- R46: no field lies in the reserved bits 7:6 and 63:44. -/
theorem packFields_reserved : (packFields op cin d a b n).extractLsb' 6 2 = 0
    ∧ (packFields op cin d a b n).extractLsb' 44 20 = 0 := by
  simp (disch := omega) only [packFields_eq_placed, BitVec.extractLsb'_or, placed_extractLsb'_disjoint,
    BitVec.or_zero]
  exact ⟨rfl, rfl⟩

/-- R48: a packed command's unused bits are 0 exactly when the fields its operation does not use are. -/
theorem unusedBitsZero_packFields : UnusedBitsZero op (packFields op cin d a b n) ↔
    (op ∉ [.addw, .subw] → cin = false) ∧ (op = .cmpmp → d = 0) ∧ (op = .red192 → b = 0)
      ∧ (op ∉ [.addmp, .submp, .mulmp, .cmpmp, .expmp] → n = 0) := by
  simp only [unusedBitsZero_iff_fields, packFields_reserved, fields_packFields, cmdCin_packFields, true_and]

end PackedFields

/-- The fields of a command with no reserved bit set, packed again, are the command. -/
theorem packFields_of_fields {op : Opcode} {c : Cmd} (hop : cmdOpc c = op.code)
    (hlow : c.extractLsb' 6 2 = 0) (hhigh : c.extractLsb' 44 20 = 0) :
    packFields op (cmdCin c) (cmdDst c) (cmdSrcA c) (cmdSrcB c) (cmdN c) = c := by
  rw [extractLsb'_eq_zero_iff] at hlow hhigh
  refine BitVec.eq_of_getLsbD_eq fun k hk => ?_
  rw [packFields_eq_placed, ofBool_cmdCin, ← hop]
  simp only [cmdOpc, cmdDst, cmdSrcA, cmdSrcB, cmdN, BitVec.getLsbD_or, placed_extractLsb'_getLsbD c hk,
    ← Bool.and_or_distrib_right, ← Bool.decide_or]
  cases hc : c.getLsbD k with
  | false => rw [Bool.and_false]
  | true =>
    have h6 : ¬ (6 ≤ k ∧ k < 8) := fun ⟨hmin, hmax⟩ => nomatch hc.symm.trans (hlow k hmin hmax)
    have h44 : ¬ 44 ≤ k := fun hmin => nomatch hc.symm.trans (hhigh k hmin hk)
    rw [Bool.and_true, decide_eq_true (by omega)]

theorem cmdHalf_cmdOfHalves (w0 w1 w2 w3 : Word) :
    cmdHalf (cmdOfHalves w0 w1 w2 w3) 0 = w0 ∧ cmdHalf (cmdOfHalves w0 w1 w2 w3) 1 = w1
      ∧ cmdHalf (cmdOfHalves w0 w1 w2 w3) 2 = w2 ∧ cmdHalf (cmdOfHalves w0 w1 w2 w3) 3 = w3 := by
  refine ⟨?_, ?_, ?_, ?_⟩
  all_goals simp (disch := omega) only [cmdHalf, cmdOfHalves_eq_placed, BitVec.extractLsb'_or,
    placed_extractLsb'_same, placed_extractLsb'_disjoint, BitVec.zero_or, BitVec.or_zero]

@[simp] theorem cmdOfHalves_cmdHalf (c : Cmd) :
    cmdOfHalves (cmdHalf c 0) (cmdHalf c 1) (cmdHalf c 2) (cmdHalf c 3) = c := by
  refine BitVec.eq_of_getLsbD_eq fun k hk => ?_
  rw [cmdOfHalves_eq_placed]
  simp only [cmdHalf, BitVec.getLsbD_or, placed_extractLsb'_getLsbD c hk, ← Bool.and_or_distrib_right,
    ← Bool.decide_or]
  rw [decide_eq_true (by omega), Bool.true_and]

/-! ### The table of operations (R47, R48) -/

theorem cmdOpc_toNat (c : Cmd) : (cmdOpc c).toNat = c.toNat % 32 := by
  simp [cmdOpc]

/-- R47: a legal OPC is 0x01 to 0x0A. -/
theorem Opcode.code_range (op : Opcode) : 1 ≤ op.code.toNat ∧ op.code.toNat ≤ 0x0A := by
  cases op <;> decide

theorem Opcode.ofCode_eq_some_iff {x : BitVec 5} {op : Opcode} : Opcode.ofCode x = some op ↔ x = op.code := by
  constructor
  · intro h
    rw [Opcode.ofCode] at h
    have hcode := List.find?_some h
    exact (beq_iff_eq.1 hcode).symm
  · rintro rfl
    cases op <;> rfl

/-- The bits that R48 marks "0" for an operation, and the reserved bits 7:6 and 63:44, by number. -/
abbrev Opcode.unusedBit (op : Opcode) (k : Nat) : Prop :=
  (6 ≤ k ∧ k < 8) ∨ (44 ≤ k ∧ k < 64)
    ∨ (k = 5 ∧ op ∉ [.addw, .subw])
    ∨ (8 ≤ k ∧ k < 18 ∧ op = .cmpmp)
    ∨ (28 ≤ k ∧ k < 38 ∧ op = .red192)
    ∨ (38 ≤ k ∧ k < 44 ∧ op ∉ [.addmp, .submp, .mulmp, .cmpmp, .expmp])

theorem Opcode.unusedBit_range {op : Opcode} {k : Nat} (h : op.unusedBit k) : 5 ≤ k ∧ k < 64 := by
  dsimp only [Opcode.unusedBit] at h
  omega

theorem unusedBitsZero_iff_bits (op : Opcode) (c : Cmd) :
    UnusedBitsZero op c ↔ ∀ k, op.unusedBit k → c.getLsbD k = false := by
  simp only [UnusedBitsZero, extractLsb'_eq_zero_iff, Opcode.unusedBit, or_imp, and_imp, forall_and, forall_eq]
  grind

/-- R55: the bits a row's mask fixes are OPC and the bits the operation does not use. -/
theorem Opcode.mask_getLsbD (op : Opcode) {k : Nat} (hk : k < 64) :
    op.mask.getLsbD k = decide (k < 5 ∨ op.unusedBit k) := by
  revert k
  cases op <;> decide

/-- R55: the match value is the command's own OPC, every other bit 0. -/
theorem Opcode.pattern_getLsbD {op : Opcode} {c : Cmd} (hop : cmdOpc c = op.code) {k : Nat} (hk : k < 64) :
    op.pattern.getLsbD k = (decide (k < 5) && c.getLsbD k) := by
  rw [Opcode.pattern, ← hop, cmdOpc]
  simp [hk]

/-- R55: with the operation's OPC, the mask test is the test of R54. -/
theorem mask_test_iff {op : Opcode} {c : Cmd} (hop : cmdOpc c = op.code) :
    c &&& op.mask = op.pattern ↔ UnusedBitsZero op c := by
  have hbit : c &&& op.mask = op.pattern ↔ ∀ k, k < 64 →
      (c.getLsbD k && decide (k < 5 ∨ op.unusedBit k)) = (decide (k < 5) && c.getLsbD k) := by
    refine ⟨fun h k hk => ?_, fun h => BitVec.eq_of_getLsbD_eq fun k hk => ?_⟩
    · rw [← op.mask_getLsbD hk, ← BitVec.getLsbD_and, h, Opcode.pattern_getLsbD hop hk]
    · rw [BitVec.getLsbD_and, op.mask_getLsbD hk, h k hk, Opcode.pattern_getLsbD hop hk]
  rw [unusedBitsZero_iff_bits, hbit]
  refine forall_congr' fun k => ?_
  by_cases hu : op.unusedBit k
  · have hrange := Opcode.unusedBit_range hu
    simp [hu, hrange, show ¬ k < 5 by omega]
  · simp [hu, Bool.and_comm]

/-! ### The decoder's answers (R84 checks 1 and 2) -/

theorem decode_of_opc {op : Opcode} {c : Cmd} (hop : cmdOpc c = op.code) :
    decode c = if c &&& op.mask = op.pattern then .ok (op.fields c) else .error .field := by
  rw [decode, Opcode.ofCode_eq_some_iff.2 hop]

theorem decode_eq_ok_iff {c : Cmd} {i : Instr} :
    decode c = .ok i ↔ ∃ op, cmdOpc c = op.code ∧ UnusedBitsZero op c ∧ op.fields c = i := by
  constructor
  · intro h
    cases hof : Opcode.ofCode (cmdOpc c) with
    | none => simp [decode, hof] at h
    | some op =>
      have hop := Opcode.ofCode_eq_some_iff.1 hof
      rw [decode_of_opc hop] at h
      split at h
      · next hmask => exact ⟨op, hop, (mask_test_iff hop).1 hmask, Except.ok.inj h⟩
      · cases h
  · rintro ⟨op, hop, hzero, rfl⟩
    rw [decode_of_opc hop, if_pos ((mask_test_iff hop).2 hzero)]

/-- R54: with a legal OPC the decoder answers ERR_FIELD exactly when an unused or reserved bit is 1. -/
theorem decode_eq_field_iff {op : Opcode} {c : Cmd} (hop : cmdOpc c = op.code) :
    decode c = .error .field ↔ ¬ UnusedBitsZero op c := by
  rw [decode_of_opc hop, ← mask_test_iff hop]
  split <;> simp [*]

/-- R53: an OPC of no operation is answered ERR_OPC. -/
theorem decode_of_reserved {c : Cmd} (h : ∀ op : Opcode, cmdOpc c ≠ op.code) : decode c = .error .opc := by
  have hnone : Opcode.ofCode (cmdOpc c) = none :=
    Option.eq_none_iff_forall_ne_some.2 fun op hof => h op (Opcode.ofCode_eq_some_iff.1 hof)
  rw [decode, hnone]

/-- R46, R48: a command whose unused bits are 0 is the encoding of its fields. -/
theorem encode_fields {op : Opcode} {c : Cmd} (hop : cmdOpc c = op.code) (hzero : UnusedBitsZero op c) :
    encode (op.fields c) = c := by
  rw [unusedBitsZero_iff_fields] at hzero
  obtain ⟨hlow, hhigh, hcin, hdst, hsrcB, hn⟩ := hzero
  have hpack := packFields_of_fields hop hlow hhigh
  cases op with
  | addw | subw =>
    rw [hn (by decide)] at hpack
    exact hpack
  | addmp | submp | mulmp | expmp =>
    rw [hcin (by decide)] at hpack
    exact hpack
  | cmpmp =>
    rw [hcin (by decide), hdst rfl] at hpack
    exact hpack
  | red192 =>
    rw [hcin (by decide), hsrcB rfl, hn (by decide)] at hpack
    exact hpack
  | mulp192 | expw =>
    rw [hcin (by decide), hn (by decide)] at hpack
    exact hpack

/-- Fields packed with the unused ones 0 decode to the instruction that holds them. -/
theorem decode_packFields {op : Opcode} {cin : Bool} {d a b : OmAddr} {n : WordLen}
    (hzero : UnusedBitsZero op (packFields op cin d a b n)) :
    decode (packFields op cin d a b n) = .ok (op.fields (packFields op cin d a b n)) :=
  decode_eq_ok_iff.2 ⟨op, by simp, hzero, rfl⟩

end Sys2Proof
end

section
/-! Lemmas of the encoding family about submission and the host-program forms: 60_exceptions.md R84 and R87,
30_encoding.md R58. -/

namespace Sys2Proof.Machine

variable {s t : State}

/-! ### Rejections (R84, R87) -/

theorem submitCheck_of_decode_error {p : Params} {c : Cmd} {code : ErrCode} (h : decode c = .error code) :
    submitCheck p c = .error code := by
  rw [submitCheck, h]

/-- Checks 3 and 4 never answer ERR_FIELD. -/
theorem submitCheck_eq_field_iff {p : Params} {c : Cmd} :
    submitCheck p c = .error .field ↔ decode c = .error .field := by
  refine ⟨fun h => ?_, submitCheck_of_decode_error⟩
  unfold submitCheck at h
  split at h
  · next code hd => rw [hd, Except.error.inj h]
  · next i _ => rcases check_cases i p with hc | hc | hc <;> simp [hc] at h

theorem reject_of_idle (he : s.engine = .idle) (code : ErrCode) : s.reject code = { s with err := code } := by
  rw [State.reject, ← he]

/-- R87: an idle engine answers a submission that fails check 1 or 2 with its code in ERR alone. -/
theorem submit_of_decode_error {code : ErrCode} (he : s.engine = .idle) (h : decode s.cmd = .error code) :
    s.submit = { s with err := code } := by
  rw [State.submit, submitCheck_of_decode_error h]
  exact reject_of_idle he code

/-- R87: an idle engine's exec of a command that fails check 3 or 4 changes ERR alone. -/
theorem exec_of_check_ne_ok {i : Instr} (he : s.engine = .idle) (h : i.check s.params ≠ .ok) :
    exec i s = .next { s with err := i.check s.params } := by
  obtain ⟨f, hf⟩ := exec_eq_runCommand s i
  rw [hf, runCommand_reject h, reject_of_idle he]

/-- R51: a wordlength of 0 or above NMAX fails check 3. -/
theorem check_len_of_wordlen {i : Instr} {p : Params} {n : Nat} (hw : i.wordlen = some n)
    (hn : n = 0 ∨ p.nmax < n) : i.check p = .len := by
  rw [check_len_iff, Bool.eq_false_iff]
  intro hok
  have := lenOk_iff.1 hok n hw
  omega

/-! ### Runs -/

theorem runSteps_add {m : Nat} (k : Nat) (h : runSteps m s = .next t) : runSteps (m + k) s = runSteps k t := by
  induction m generalizing s with
  | zero =>
    obtain rfl : s = t := Host.Outcome.next.inj h
    rw [Nat.zero_add]
  | succ m ih =>
    rw [Nat.add_right_comm]
    cases hs : step s with
    | next u =>
      rw [runSteps_succ m hs] at h
      rw [runSteps_succ _ hs, ih h]
    | fault r => simp [runSteps, hs] at h
    | refused r => simp [runSteps, hs] at h

theorem runSteps_one (s : State) : runSteps 1 s = step s := by
  cases hs : step s <;> simp [runSteps, hs]

/-- R105: a BUSY engine with no host action pending counts its cycles down and then runs the latched command. -/
theorem runSteps_busy {i : Instr} (he : s.engine = .busy) (hh : s.host = []) (hd : decode s.latch = .ok i) :
    runSteps (s.cyclesLeft + 1) s = exec i { s with cyclesLeft := 0 }.quiet := by
  have hr : ∀ rest, s.host ≠ .reset :: rest := by simp [hh]
  induction hk : s.cyclesLeft generalizing s with
  | zero =>
    have hs : { s with cyclesLeft := 0 } = s := by rw [← hk]
    rw [Nat.zero_add, runSteps_one, step_complete he hk hr hd, hs]
  | succ k ih =>
    have hbusy : s.busyStep = s.tick.quiet := by rw [State.busyStep, hh]
    rw [runSteps_succ _ (step_busy he (by omega) hr), hbusy]
    exact ih he hh hd hr (by simp [hk])

theorem hostWrite_cmd3 {h : HostAddr} {v : Word} (ht : hostTarget s.params h = .cmd3) :
    s.hostWrite h v = State.submit { s with cmd3 := v } := by
  simp [State.hostWrite, ht]

section CommandWrites

variable {v : Word} {rest : List HostAction} (hp : Config.paramsInRange s.params) (he : s.engine = .idle)
include hp he

theorem step_write_cmd0 (hh : s.host = .write 0x800 v :: rest) :
    step s = .next { s with cmd0 := v, host := rest, hReady := true, hRdata := none } := by
  obtain ⟨-, hcmd0, -, -⟩ := hostWriteStoresWord s _ v rest hp he hh
  exact hcmd0 rfl

theorem step_write_cmd1 (hh : s.host = .write 0x801 v :: rest) :
    step s = .next { s with cmd1 := v, host := rest, hReady := true, hRdata := none } := by
  obtain ⟨-, -, hcmd1, -⟩ := hostWriteStoresWord s _ v rest hp he hh
  exact hcmd1 rfl

theorem step_write_cmd2 (hh : s.host = .write 0x802 v :: rest) :
    step s = .next { s with cmd2 := v, host := rest, hReady := true, hRdata := none } := by
  obtain ⟨-, -, -, hcmd2⟩ := hostWriteStoresWord s _ v rest hp he hh
  exact hcmd2 rfl

/-- R84: a write of CMD3 submits. -/
theorem step_write_cmd3 (hh : s.host = .write 0x803 v :: rest) :
    step s = .next (State.submit { s with cmd3 := v, host := rest, hReady := true, hRdata := none }) := by
  obtain ⟨-, -, -, hcmd3, -⟩ := hostTarget_registers hp
  rw [step_idle_write he hh]
  exact congrArg _ (hostWrite_cmd3 hcmd3)

end CommandWrites

/-- The state after the four writes of `ISSUE c` (R58), before the submission that the last one makes. -/
def State.issued (s : State) (c : Cmd) : State :=
  { s with
    cmd0 := cmdHalf c 0
    cmd1 := cmdHalf c 1
    cmd2 := cmdHalf c 2
    cmd3 := cmdHalf c 3
    host := []
    hReady := true
    hRdata := none }

/-- R58: the four writes of ISSUE store the halves of the command, and the last one submits it. -/
theorem runSteps_hostIssue {c : Cmd} (hp : Config.paramsInRange s.params) (he : s.engine = .idle)
    (hh : s.host = hostIssue c) : runSteps 4 s = .next (s.issued c).submit := by
  refine Eq.trans (runSteps_succ 3 (step_write_cmd0 hp he hh)) ?_
  refine Eq.trans (runSteps_succ 2 (step_write_cmd1 hp he rfl)) ?_
  refine Eq.trans (runSteps_succ 1 (step_write_cmd2 hp he rfl)) ?_
  rw [runSteps_one]
  exact step_write_cmd3 hp he rfl

theorem issued_cmd (s : State) (c : Cmd) : (s.issued c).cmd = c := cmdOfHalves_cmdHalf c

theorem issued_submit {c : Cmd} {i : Instr} (hc : submitCheck s.params c = .ok i) :
    (s.issued c).submit = (s.issued c).accept i := by
  have hcheck : submitCheck (s.issued c).params (s.issued c).cmd = .ok i := by
    rw [issued_cmd]
    exact hc
  rw [State.submit, hcheck]

/-- An issued command, accepted and with its cycles over, stands as `withRunning` puts it (log 12). -/
theorem issued_accept_lastCycle (s : State) (c : Cmd) (i : Instr) :
    { (s.issued c).accept i with cyclesLeft := 0 }.quiet = (s.withRunning c).quiet := by
  rw [State.accept, issued_cmd]
  rfl

/-- R31, R58: each write of a LOAD inside OM stores its word. -/
theorem runSteps_hostLoad {a : HostAddr} {ws : List Word} (hp : Config.paramsInRange s.params)
    (he : s.engine = .idle) (hh : s.host = hostLoad a ws) (hfit : a.toNat + ws.length ≤ s.params.omWords) :
    ∃ t, runSteps ws.length s = .next t ∧ t.om = s.om.setWords a.toNat ws ∧ t.host = [] := by
  induction ws generalizing s a with
  | nil => exact ⟨s, rfl, rfl, hh⟩
  | cons w ws ih =>
    rw [List.length_cons] at hfit ⊢
    have ⟨⟨_, hmax⟩, _⟩ := hp
    have hnext : (a + 1).toNat = a.toNat + 1 := by bv_omega
    have hlt : a.toNat < s.params.omWords := by omega
    have hfit' : (a + 1).toNat + ws.length ≤ s.params.omWords := by omega
    obtain ⟨t, hrun, hom, hhost⟩ := ih (s := { s with
      om := s.om.set a.toNat w, hReady := true, hRdata := none, host := hostLoad (a + 1) ws })
      hp he rfl hfit'
    have hstep := (step_idle_write he hh).trans (congrArg _ (hostWrite_om hlt))
    refine ⟨t, (runSteps_succ ws.length hstep).trans hrun, ?_, hhost⟩
    rw [hom, hnext, Memory.setWords]

end Sys2Proof.Machine
end

section
/-! The encoding family's statements. -/

namespace Sys2Proof.Machine

/-- Settles O1: an encoding packs the fields its operation uses, with the unused ones 0. -/
theorem decodeOfEncode : Obligations.DecodeOfEncode := by
  intro i
  cases i
  all_goals
    rw [encode, decode_packFields (by simp [unusedBitsZero_packFields])]
    simp [Opcode.fields]

/-- Settles O2: a command that decodes has its unused bits 0, so its fields pack to it again. -/
theorem encodeOfDecode : Obligations.EncodeOfDecode := by
  intro c i h
  obtain ⟨op, hop, hzero, rfl⟩ := decode_eq_ok_iff.1 h
  exact encode_fields hop hzero

/-- Settles O3: the OPC values of R47 are 0x01 to 0x0A, so the decoder answers ERR_OPC. -/
theorem reservedOpcodeRejected : Obligations.ReservedOpcodeRejected := by
  intro s he hopc
  refine submit_of_decode_error he (decode_of_reserved fun op hop => ?_)
  obtain ⟨hmin, hmax⟩ := op.code_range
  rw [← hop, cmdOpc_toNat] at hmin hmax
  omega

/-- Settles O4: the mask test is the test of the unused bits, and check 2 alone answers ERR_FIELD. -/
theorem fieldCheckIsUnusedBits : Obligations.FieldCheckIsUnusedBits := by
  intro op c hopc
  have hop : cmdOpc c = op.code := BitVec.eq_of_toNat_eq (by rw [cmdOpc_toNat, hopc])
  have hfield := decode_eq_field_iff hop
  refine ⟨fun p => ?_, fun s he hcmd hbits => submit_of_decode_error he ?_⟩
  · have hcheck : submitCheck p c = .error .field ↔ ¬ UnusedBitsZero op c :=
      submitCheck_eq_field_iff.trans hfield
    exact ⟨hcheck, by rw [Ne, hcheck, not_not, mask_test_iff hop]⟩
  · rw [hcmd]
    exact hfield.2 hbits

/-- Settles O5, by decoding the six words. -/
theorem specWordsDecode : Obligations.SpecWordsDecode :=
  ⟨by decide, by decide, by decide, by decide, by decide, by decide⟩

/-- Settles O6: a half is a 16-bit window of the command. -/
theorem commandOfItsHalves : Obligations.CommandOfItsHalves :=
  ⟨cmdHalf_cmdOfHalves, cmdOfHalves_cmdHalf⟩

/-- Settles O34: such an N fails check 3, and exec answers with that check's code. -/
theorem illegalLengthRejected : Obligations.IllegalLengthRejected := by
  intro d a b n i s he hi hn
  have hw : i.wordlen = some n.toNat := by
    rcases hi with rfl | rfl | rfl | rfl | rfl <;> rfl
  have hlen : i.check s.params = .len := check_len_of_wordlen hw (hn.imp (congrArg BitVec.toNat) id)
  rw [exec_of_check_ne_ok he (by simp [hlen]), hlen]

/-- Settles O40: four steps for the writes, whose last accepts the command, then the cycles of LATENCY. -/
theorem issuedCommandTakesEffect : Obligations.IssuedCommandTakesEffect := by
  intro s c i hp he hh hc
  obtain ⟨hd, -⟩ := submitCheck_ok hc
  have hrun : runSteps 4 s = .next ((s.issued c).accept i) := by
    rw [runSteps_hostIssue hp he hh, issued_submit hc]
  have hlatch : decode ((s.issued c).accept i).latch = .ok i := by
    rw [State.accept_latch, issued_cmd, hd]
  have hcycles : Config.latency c (s.operandWords i) = ((s.issued c).accept i).cyclesLeft + 1 := by
    rw [State.accept_cyclesLeft, issued_cmd]
    rfl
  rw [runSteps_add _ hrun, hcycles, runSteps_busy rfl rfl hlatch, issued_accept_lastCycle]

/-- Settles O57: the writes store the listed words one after another, which is what `setWords` does. -/
theorem loadWritesWords : Obligations.LoadWritesWords := by
  intro s a ws hp he hh hfit
  obtain ⟨t, hrun, hom, hhost⟩ := runSteps_hostLoad hp he hh hfit
  refine ⟨t, hrun, ?_, fun x hx => ?_, hhost⟩
  · rw [State.omWords_def, hom, Memory.words_setWords]
  · rw [State.omWord_def, State.omWord_def, hom, Memory.word_setWords_outside ws s.om a.toNat x hx]

end Sys2Proof.Machine
end

section
/-! Lemmas of the word arithmetic family: 40_word_arithmetic.md R59 to R61. The two word functions as arithmetic
on naturals, and a command that stores one word with its carry. -/

namespace Sys2Proof.Machine

variable {s t : State} {i : Instr}

/-! ### The widened intermediate (R59) -/

@[simp] theorem carryBit_toNat (cin : Bool) : (carryBit cin).toNat = cin.toNat := by
  cases cin <;> rfl

/-- R59: the 17-bit sum does not wrap. -/
theorem wideSum_toNat (x y : Word) (cin : Bool) :
    (x.setWidth 17 + y.setWidth 17 + carryBit cin).toNat = x.toNat + y.toNat + cin.toNat := by
  have hcin := Bool.toNat_le cin
  simp only [BitVec.toNat_add, BitVec.toNat_setWidth, carryBit_toNat]
  omega

/-- R59: the 17-bit subtrahend does not wrap. -/
theorem wideSubtrahend_toNat (y : Word) (bin : Bool) :
    (y.setWidth 17 + carryBit bin).toNat = y.toNat + bin.toNat := by
  have hbin := Bool.toNat_le bin
  simp only [BitVec.toNat_add, BitVec.toNat_setWidth, carryBit_toNat]
  omega

theorem addWord_fst_toNat (x y : Word) (cin : Bool) :
    (addWord x y cin).1.toNat = (x.toNat + y.toNat + cin.toNat) % 2 ^ 16 := by
  rw [addWord, BitVec.toNat_setWidth, wideSum_toNat]

theorem addWord_snd (x y : Word) (cin : Bool) :
    (addWord x y cin).2 = decide (0xFFFF < x.toNat + y.toNat + cin.toNat) := by
  rw [addWord, ← wideSum_toNat]
  exact (BitVec.msb_eq_getLsbD_last _).symm.trans (BitVec.msb_eq_decide _)

theorem subWord_fst_toNat (x y : Word) (bin : Bool) :
    ((subWord x y bin).1.toNat : Int) = ((x.toNat : Int) - y.toNat - bin.toNat) % 2 ^ 16 := by
  have hbin := Bool.toNat_le bin
  simp only [subWord, BitVec.toNat_setWidth, BitVec.toNat_sub, wideSubtrahend_toNat]
  omega

theorem subWord_snd (x y : Word) (bin : Bool) :
    (subWord x y bin).2 = decide (x.toNat < y.toNat + bin.toNat) := by
  have hx : (x.setWidth 17).toNat = x.toNat := BitVec.toNat_setWidth_of_le (by decide)
  simp only [subWord, BitVec.lt_def, wideSubtrahend_toNat, hx]

/-! ### Commands of one word -/

theorem omWord_memWrite_one (s : State) (a : Nat) (w : Word) : (s.memWrite a 1 w.toNat).omWord a = w := by
  simp [wordsOf, Memory.setWords]

theorem check_addw_ok_iff {p : Params} {d a b : OmAddr} {cin : Bool} :
    (Instr.addw d a b cin).check p = .ok
      ↔ d.toNat < p.omWords ∧ a.toNat < p.omWords ∧ b.toNat < p.omWords := by
  simp [check_ok_iff, Instr.wordlen, Instr.operands, Instr.sources, Instr.dstRange, Instr.srcARange,
    Instr.srcBRange, Nat.succ_le_iff]

theorem check_subw_ok_iff {p : Params} {d a b : OmAddr} {cin : Bool} :
    (Instr.subw d a b cin).check p = .ok
      ↔ d.toNat < p.omWords ∧ a.toNat < p.omWords ∧ b.toNat < p.omWords :=
  check_addw_ok_iff (cin := cin)

/-- A command whose effect is one word and its carry, both of the state before it, completes with them. -/
theorem runCommand_storeWord (hc : i.check s.params = .ok) (r : State → Word × Bool) (a : Nat) :
    ∃ t, runCommand i s (fun s => (s.memWrite a 1 (r s).1.toNat).withCarry (r s).2) = .next t
      ∧ t.omWord a = (r s).1 ∧ t.carry = (r s).2 ∧ t.ge = s.ge ∧ Completed t :=
  ⟨_, runCommand_ok hc, omWord_memWrite_one s a (r s).1, rfl, rfl, rfl, rfl⟩

/-! ### Frames -/

/-- A command whose effect keeps the exponentiation controller keeps it when rejected too. -/
theorem runCommand_ctrl {f : State → State} (hf : (f s).ctrl = s.ctrl) (h : runCommand i s f = .next t) :
    t.ctrl = s.ctrl := by
  rcases runCommand_cases h with ⟨-, rfl⟩ | ⟨-, rfl⟩
  · exact hf
  · rfl

theorem ExecFrame.ge_eq (h : ExecFrame i s t) (hop : i.opcode ≠ .cmpmp) : t.ge = s.ge :=
  h.ge.resolve_right fun ⟨_, hcmp⟩ => hop hcmp

theorem ExecFrame.omSameOutside {r : OmRange} (h : ExecFrame i s t) (hr : i.dstRange = some r) :
    OmSameOutside r s t := by
  intro a ha
  refine (h.word a).resolve_right ?_
  rintro ⟨-, r', hr', ha'⟩
  obtain rfl : r' = r := Option.some.inj (hr'.symm.trans hr)
  exact ha ha'

end Sys2Proof.Machine
end

section
/-! The word arithmetic family's statements: ADDW and SUBW. -/

namespace Sys2Proof.Machine

/-- Settles O7: the word stored and its carry are `addWord`'s, whose 17-bit sum does not wrap. -/
theorem addwResult : Obligations.AddwResult := by
  intro d a b cin s hd ha hb
  obtain ⟨t, hnext, hword, hcarry, hkept⟩ :=
    runCommand_storeWord (check_addw_ok_iff (cin := cin).2 ⟨hd, ha, hb⟩)
      (fun s => addWord (s.omWord a.toNat) (s.omWord b.toNat) cin) d.toNat
  refine ⟨t, (exec_addw d a b cin s).trans hnext, ?_, ?_, hkept⟩
  · rw [hword, addWord_fst_toNat]
  · rw [hcarry, addWord_snd]

/-- Settles O8: the word stored and its borrow are `subWord`'s, whose 17-bit subtrahend does not wrap. -/
theorem subwResult : Obligations.SubwResult := by
  intro d a b cin s hd ha hb
  obtain ⟨t, hnext, hword, hborrow, hkept⟩ :=
    runCommand_storeWord (check_subw_ok_iff (cin := cin).2 ⟨hd, ha, hb⟩)
      (fun s => subWord (s.omWord a.toNat) (s.omWord b.toNat) cin) d.toNat
  refine ⟨t, (exec_subw d a b cin s).trans hnext, ?_, ?_, hkept⟩
  · rw [hword, subWord_fst_toNat]
  · rw [hborrow, subWord_snd]

/-- Settles O9, from the frame of every command and the effect of these two, which keeps the controller. -/
theorem wordCommandsFrame : Obligations.WordCommandsFrame := by
  intro d a b cin i s t hi h
  have hf := exec_frame h
  rcases hi with rfl | rfl
  · exact ⟨hf.control, hf.ge_eq nofun, runCommand_ctrl rfl (exec_addw d a b cin s ▸ h), hf.omSameOutside rfl⟩
  · exact ⟨hf.control, hf.ge_eq nofun, runCommand_ctrl rfl (exec_subw d a b cin s ▸ h), hf.omSameOutside rfl⟩

end Sys2Proof.Machine
end

section
/-! Lemmas of the multiprecision family about lists of words: 41_multiprecision.md R62, R65 to R67. What each
loop over words does to their values, with the carry that goes in and the carry that comes out. -/

namespace Sys2Proof.Machine

/-! ### Values of lists of words (R7) -/

theorem wordsVal_append (xs ys : List Word) :
    wordsVal (xs ++ ys) = wordsVal xs + 2 ^ (16 * xs.length) * wordsVal ys := by
  induction xs with
  | nil => simp [wordsVal]
  | cons x xs ih =>
    simp only [List.cons_append, wordsVal, ih, List.length_cons]
    rw [show 16 * (xs.length + 1) = 16 + 16 * xs.length by omega, Nat.pow_add]
    ring

theorem wordsVal_replicate_zero (n : Nat) : wordsVal (List.replicate n 0) = 0 := by
  induction n with
  | zero => rfl
  | succ n ih => rw [List.replicate_succ, wordsVal, ih]; rfl

theorem wordsVal_singleton (w : Word) : wordsVal [w] = w.toNat := by
  simp [wordsVal]

/-! ### Chains of word functions (R62) -/

/-- R59: the sum's word is the true sum without what its carry adds to the next word. -/
theorem addWord_exact (x y : Word) (k : Bool) :
    ((addWord x y k).1.toNat : Int) = x.toNat + (y.toNat + k.toNat - 2 ^ 16 * (addWord x y k).2.toNat) := by
  have hk := Bool.toNat_le k
  rw [addWord_fst_toNat, addWord_snd]
  by_cases hcarry : 0xFFFF < x.toNat + y.toNat + k.toNat
  · simp only [hcarry, decide_true, Bool.toNat_true]; omega
  · simp only [hcarry, decide_false, Bool.toNat_false]; omega

/-- R59: the difference's word is the true difference with what its borrow takes from the next word. -/
theorem subWord_exact (x y : Word) (k : Bool) :
    ((subWord x y k).1.toNat : Int) = x.toNat - (y.toNat + k.toNat - 2 ^ 16 * (subWord x y k).2.toNat) := by
  have hk := Bool.toNat_le k
  rw [subWord_fst_toNat, subWord_snd]
  by_cases hborrow : x.toNat < y.toNat + k.toNat
  · simp only [hborrow, decide_true, Bool.toNat_true]; omega
  · simp only [hborrow, decide_false, Bool.toNat_false]; omega

section Chain

variable {f : Word → Word → Bool → Word × Bool} {xs ys : List Word}

theorem chainWords_length (h : xs.length = ys.length) (k : Bool) :
    (chainWords f xs ys k).1.length = xs.length := by
  induction xs generalizing ys k with
  | nil => simp [chainWords]
  | cons x xs ih =>
    cases ys with
    | nil => cases h
    | cons y ys => simp [chainWords, ih (Nat.succ.inj h)]

/-- R62: what a word function does to one word, with sign `1` for an add and `-1` for a subtract, its chain does
to the whole operands. -/
theorem chainWords_exact {sign : Int}
    (hf : ∀ x y k, ((f x y k).1.toNat : Int)
      = x.toNat + sign * (y.toNat + k.toNat - 2 ^ 16 * (f x y k).2.toNat))
    (h : xs.length = ys.length) (k : Bool) :
    (wordsVal (chainWords f xs ys k).1 : Int)
      = wordsVal xs + sign * (wordsVal ys + k.toNat - 2 ^ (16 * xs.length) * (chainWords f xs ys k).2.toNat) := by
  induction xs generalizing ys k with
  | nil =>
    obtain rfl := List.length_eq_zero_iff.1 h.symm
    simp [chainWords, wordsVal]
  | cons x xs ih =>
    cases ys with
    | nil => cases h
    | cons y ys =>
      have hword := hf x y k
      have hrest := ih (Nat.succ.inj h) (f x y k).2
      simp only [chainWords, wordsVal, List.length_cons]
      rw [show 16 * (xs.length + 1) = 16 + 16 * xs.length by omega, pow_add]
      push_cast
      linear_combination hword + 2 ^ 16 * hrest

end Chain

/-- R63: a value below `m` and a carry worth `m` are their sum modulo `m` and whether that sum reaches `m`. -/
theorem mod_and_carry_of_exact {m v u : Nat} {c : Bool} (hv : v < m) (h : v + m * c.toNat = u) :
    v = u % m ∧ c = decide (m ≤ u) := by
  subst h
  constructor
  · rw [Nat.add_mul_mod_self_left, Nat.mod_eq_of_lt hv]
  · cases c <;> simp [hv]

/-- R64: a value below `m` and a borrow worth `m` are a difference modulo `m` and whether it is negative. -/
theorem mod_and_borrow_of_exact {m v a b : Nat} {c : Bool} (hv : v < m) (h : v + b = a + m * c.toNat) :
    (v : Int) = ((a : Int) - b) % m ∧ c = decide (a < b) := by
  constructor
  · have hdiff : (a : Int) - b = v - m * c.toNat := by zify at h; linarith
    rw [hdiff, Int.sub_mul_emod_self_left, Int.emod_eq_of_lt (by omega) (by omega)]
  · cases c with
    | false => rw [Bool.toNat_false] at h; exact (decide_eq_false (by omega)).symm
    | true => rw [Bool.toNat_true] at h; exact (decide_eq_true (by omega)).symm

/-- R62: the chained add has the closed form of R63. -/
theorem chainWords_addWord {xs ys : List Word} (h : xs.length = ys.length) :
    wordsVal (chainWords addWord xs ys false).1 = (wordsVal xs + wordsVal ys) % 2 ^ (16 * xs.length)
      ∧ (chainWords addWord xs ys false).2 = decide (2 ^ (16 * xs.length) ≤ wordsVal xs + wordsVal ys) := by
  have hlt := wordsVal_lt (chainWords addWord xs ys false).1
  have hexact := chainWords_exact (f := addWord) (sign := 1)
    (fun x y k => by rw [addWord_exact, one_mul]) h false
  rw [chainWords_length h] at hlt
  refine mod_and_carry_of_exact hlt ?_
  zify
  simp only [hexact, Bool.toNat_false]
  ring

/-- R62: the chained subtract has the closed form of R64. -/
theorem chainWords_subWord {xs ys : List Word} (h : xs.length = ys.length) :
    (wordsVal (chainWords subWord xs ys false).1 : Int)
        = ((wordsVal xs : Int) - wordsVal ys) % 2 ^ (16 * xs.length)
      ∧ (chainWords subWord xs ys false).2 = decide (wordsVal xs < wordsVal ys) := by
  have hlt := wordsVal_lt (chainWords subWord xs ys false).1
  have hexact := chainWords_exact (f := subWord) (sign := -1)
    (fun x y k => by rw [subWord_exact, neg_one_mul, sub_eq_add_neg]) h false
  rw [chainWords_length h] at hlt
  refine mod_cast mod_and_borrow_of_exact hlt ?_
  zify
  simp only [hexact, Bool.toNat_false]
  ring

/-! ### The schoolbook loop (R65, R66) -/

/-- R66: the product of two words fits in 32 bits. -/
theorem word_mul_le (x y : Word) : x.toNat * y.toNat ≤ 0xFFFE0001 :=
  Nat.mul_le_mul (Nat.le_of_lt_succ x.isLt) (Nat.le_of_lt_succ y.isLt)

theorem mul16_toNat (x y : Word) : (mul16 x y).toNat = x.toNat * y.toNat := by
  have hle := word_mul_le x y
  rw [mul16, BitVec.toNat_mul, BitVec.toNat_setWidth_of_le (by decide), BitVec.toNat_setWidth_of_le (by decide)]
  exact Nat.mod_eq_of_lt (by omega)

/-- R65: the 32-bit column sum does not wrap. -/
theorem columnSum_toNat (p x y k : Word) :
    (p.setWidth 32 + mul16 x y + k.setWidth 32).toNat = p.toNat + x.toNat * y.toNat + k.toNat := by
  have hle := word_mul_le x y
  simp only [BitVec.toNat_add, BitVec.toNat_setWidth, mul16_toNat]
  omega

/-- A 32-bit column sum is its low word and its carry word. -/
theorem low_add_high_toNat (t : BitVec 32) :
    (t.setWidth 16).toNat + 2 ^ 16 * (t.extractLsb' 16 16).toNat = t.toNat := by
  have ht := t.isLt
  simp only [BitVec.toNat_setWidth, BitVec.extractLsb'_toNat, Nat.shiftRight_eq_div_pow]
  omega

/-- R65: a row touches the columns of B's words and the next one, into which the carry word goes unread. -/
theorem schoolbookRow_append (x : Word) {ys q : List Word} (h : q.length = ys.length) (z : Word)
    (r : List Word) (k : Word) :
    schoolbookRow x ys (q ++ z :: r) k = schoolbookRow x ys q k ++ r := by
  induction ys generalizing q k with
  | nil =>
    obtain rfl := List.length_eq_zero_iff.1 h
    rfl
  | cons y ys ih =>
    cases q with
    | nil => cases h
    | cons p q => simp [schoolbookRow, ih (Nat.succ.inj h)]

theorem schoolbookRow_length (x : Word) {ys q : List Word} (h : q.length = ys.length) (k : Word) :
    (schoolbookRow x ys q k).length = ys.length + 1 := by
  induction ys generalizing q k with
  | nil => simp [schoolbookRow, h]
  | cons y ys ih => simp [schoolbookRow, ih, h]

/-- R65: a row adds the product of one word of A and B to the columns of B's words. -/
theorem wordsVal_schoolbookRow (x : Word) {ys q : List Word} (h : q.length = ys.length) (k : Word) :
    wordsVal (schoolbookRow x ys q k) = wordsVal q + x.toNat * wordsVal ys + k.toNat := by
  induction ys generalizing q k with
  | nil =>
    obtain rfl := List.length_eq_zero_iff.1 h
    simp [schoolbookRow, wordsVal]
  | cons y ys ih =>
    cases q with
    | nil => cases h
    | cons p q =>
      have hcol := columnSum_toNat p x y k
      rw [← low_add_high_toNat] at hcol
      simp only [schoolbookRow, wordsVal, List.headD_cons, List.tail_cons, ih (Nat.succ.inj h)]
      linarith

/-- R65: the outer loop, on columns of which the first as many as B's words hold an earlier sum. -/
theorem schoolbookLoop_exact (xs : List Word) {b q : List Word} (h : q.length = b.length) :
    (schoolbookLoop xs b (q ++ List.replicate xs.length 0)).length = b.length + xs.length
      ∧ wordsVal (schoolbookLoop xs b (q ++ List.replicate xs.length 0))
          = wordsVal q + wordsVal xs * wordsVal b := by
  induction xs generalizing q with
  | nil => simp [schoolbookLoop, wordsVal, h]
  | cons x xs ih =>
    have hval : wordsVal (schoolbookRow x b q 0) = wordsVal q + x.toNat * wordsVal b :=
      wordsVal_schoolbookRow x h 0
    have hlen := schoolbookRow_length x h 0
    have happ := schoolbookRow_append x h 0 (List.replicate xs.length 0) 0
    obtain ⟨w, q', hrow⟩ := List.exists_cons_of_length_eq_add_one hlen
    rw [hrow] at hval hlen happ
    obtain ⟨ihlen, ihval⟩ := ih (q := q') (Nat.succ.inj hlen)
    simp only [List.length_cons, List.replicate_succ, schoolbookLoop, happ, List.cons_append,
      List.headD_cons, List.tail_cons, wordsVal, ihlen, ihval] at hval ⊢
    exact ⟨by omega, by linarith⟩

theorem schoolbook_exact (x y : List Word) :
    (schoolbook x y).length = x.length + y.length ∧ wordsVal (schoolbook x y) = wordsVal x * wordsVal y := by
  have h := schoolbookLoop_exact x (b := y) (q := List.replicate y.length 0) List.length_replicate
  rw [List.replicate_append_replicate, wordsVal_replicate_zero, Nat.zero_add, Nat.add_comm y.length] at h
  exact h

/-! ### The comparator's scan (R67) -/

/-- R67: a higher word outweighs all lower words together. -/
theorem add_mul_lt_add_mul {m u v x y : Nat} (hu : u < m) (h : x < y) : u + m * x < v + m * y :=
  calc u + m * x < m * (x + 1) := by rw [Nat.mul_succ]; omega
    _ ≤ m * y := Nat.mul_le_mul_left m h
    _ ≤ v + m * y := Nat.le_add_left ..

/-- The scan compares the values of words given most significant first. -/
theorem scanGe_eq_decide {xs ys : List Word} (h : xs.length = ys.length) :
    scanGe xs ys = decide (wordsVal ys.reverse ≤ wordsVal xs.reverse) := by
  induction xs generalizing ys with
  | nil =>
    obtain rfl := List.length_eq_zero_iff.1 h.symm
    simp [scanGe]
  | cons x xs ih =>
    cases ys with
    | nil => cases h
    | cons y ys =>
      have hlen : xs.length = ys.length := Nat.succ.inj h
      have hx := wordsVal_lt xs.reverse
      have hy := wordsVal_lt ys.reverse
      simp only [scanGe, List.reverse_cons, wordsVal_append, wordsVal_singleton, List.length_reverse, hlen]
        at hx hy ⊢
      rcases Nat.lt_trichotomy x.toNat y.toNat with hlt | heq | hgt
      · have hval := add_mul_lt_add_mul (v := wordsVal ys.reverse) hx hlt
        have hne : x ≠ y := fun hxy => absurd (congrArg BitVec.toNat hxy) hlt.ne
        rw [if_neg hne, decide_eq_decide]
        exact iff_of_false hlt.not_gt hval.not_ge
      · obtain rfl := BitVec.eq_of_toNat_eq heq
        simp [ih hlen]
      · have hval := add_mul_lt_add_mul (v := wordsVal xs.reverse) hy hgt
        have hne : x ≠ y := fun hxy => absurd (congrArg BitVec.toNat hxy) hgt.ne'
        rw [if_neg hne, decide_eq_decide]
        exact iff_of_true hgt hval.le

theorem compareWords_eq_decide {xs ys : List Word} (h : xs.length = ys.length) :
    compareWords xs ys = decide (wordsVal ys ≤ wordsVal xs) := by
  simpa [compareWords] using scanGe_eq_decide (xs := xs.reverse) (ys := ys.reverse) (by simpa using h)

end Sys2Proof.Machine
end

section
/-! Lemmas of the multiprecision family about its commands: 41_multiprecision.md R63 to R67. Their checks, the value
that each stores, and the forms with N = 1. -/

namespace Sys2Proof.Machine

variable {s t : State} {i j : Instr} {p : Params} {d a b : OmAddr} {n : WordLen}

/-! ### Checks (R51, R85) -/

theorem check_addmp_ok (h1 : 1 ≤ n.toNat) (hmax : n.toNat ≤ p.nmax) (hd : d.toNat + n.toNat ≤ p.omWords)
    (ha : a.toNat + n.toNat ≤ p.omWords) (hb : b.toNat + n.toNat ≤ p.omWords) :
    (Instr.addmp d a b n).check p = .ok := by
  simp [check_ok_iff, Instr.wordlen, Instr.operands, Instr.sources, Instr.dstRange, Instr.srcARange,
    Instr.srcBRange, h1, hmax, hd, ha, hb]

theorem check_submp_ok (h1 : 1 ≤ n.toNat) (hmax : n.toNat ≤ p.nmax) (hd : d.toNat + n.toNat ≤ p.omWords)
    (ha : a.toNat + n.toNat ≤ p.omWords) (hb : b.toNat + n.toNat ≤ p.omWords) :
    (Instr.submp d a b n).check p = .ok := check_addmp_ok h1 hmax hd ha hb

theorem check_mulmp_ok (h1 : 1 ≤ n.toNat) (hmax : n.toNat ≤ p.nmax) (hd : d.toNat + 2 * n.toNat ≤ p.omWords)
    (ha : a.toNat + n.toNat ≤ p.omWords) (hb : b.toNat + n.toNat ≤ p.omWords) :
    (Instr.mulmp d a b n).check p = .ok := by
  simp [check_ok_iff, Instr.wordlen, Instr.operands, Instr.sources, Instr.dstRange, Instr.srcARange,
    Instr.srcBRange, h1, hmax, hd, ha, hb]

theorem check_cmpmp_ok (h1 : 1 ≤ n.toNat) (hmax : n.toNat ≤ p.nmax) (ha : a.toNat + n.toNat ≤ p.omWords)
    (hb : b.toNat + n.toNat ≤ p.omWords) : (Instr.cmpmp a b n).check p = .ok := by
  simp [check_ok_iff, Instr.wordlen, Instr.operands, Instr.sources, Instr.dstRange, Instr.srcARange,
    Instr.srcBRange, h1, hmax, ha, hb]

/-! ### Frames -/

/-- A command whose effect keeps OM keeps it when rejected too. -/
theorem runCommand_om {f : State → State} (hf : (f s).om = s.om) (h : runCommand i s f = .next t) :
    t.om = s.om := by
  rcases runCommand_cases h with ⟨-, rfl⟩ | ⟨-, rfl⟩
  · exact hf
  · rfl

theorem ExecFrame.carry_eq (h : ExecFrame i s t) (hop : i.opcode ∉ [.addw, .subw, .addmp, .submp]) :
    t.carry = s.carry :=
  h.carry.resolve_right fun ⟨_, hmem⟩ => hop hmem

/-! ### Commands that store a value -/

/-- A command whose effect is an `n`-word value and a carry, both of the state before it, completes with them. -/
theorem runCommand_storeValue (hc : i.check s.params = .ok) (v : State → Nat) (c : State → Bool) (d n : Nat) :
    ∃ t, runCommand i s (fun s => (s.memWrite d n (v s)).withCarry (c s)) = .next t
      ∧ t.memRead d n = v s % 2 ^ (16 * n) ∧ t.carry = c s ∧ t.ge = s.ge ∧ Completed t :=
  ⟨_, runCommand_ok hc, memRead_memWrite s d n (v s), rfl, rfl, rfl, rfl⟩

/-- R64: SUBMP's value is already the remainder that its N words keep. -/
theorem subValue_mod (n x y : Nat) :
    ((subValue n x y % 2 ^ (16 * n) : Nat) : Int) = ((x : Int) - y) % 2 ^ (16 * n) := by
  have hpos : (0 : Int) < 2 ^ (16 * n) := by positivity
  rw [subValue]
  push_cast
  rw [Int.toNat_of_nonneg (Int.emod_nonneg _ hpos.ne'), Int.emod_emod]

/-- R65: the product of two `n`-word operands fits in `2n` words. -/
theorem memRead_mul_memRead_lt (s : State) (a b n : Nat) :
    s.memRead a n * s.memRead b n < 2 ^ (16 * (2 * n)) := by
  rw [show 16 * (2 * n) = 16 * n + 16 * n by omega, Nat.pow_add]
  exact Nat.mul_lt_mul'' (memRead_lt s a n) (memRead_lt s b n)

/-! ### N = 1 -/

theorem wordLen_one_toNat : (1 : WordLen).toNat = 1 := rfl

/-- R51: N = 1 is legal in every build, so the check of its operands is the only one. -/
theorem check_eq_of_wordlen_one (hmax : 1 ≤ p.nmax) (hi : i.wordlen = some 1) (hj : j.wordlen = none)
    (h : i.operands = j.operands) : i.check p = j.check p := by
  have hleni : i.lenOk p = true := by simp [lenOk_iff, hi, hmax]
  have hlenj : j.lenOk p = true := by simp [lenOk_iff, hj]
  simp [Instr.check, Instr.rangesOk, hleni, hlenj, h]

theorem runCommand_congr {f g : State → State} (hc : i.check s.params = j.check s.params) (hf : f s = g s) :
    runCommand i s f = runCommand j s g := by
  simp only [runCommand_eq, hc, hf]

theorem memRead_one (s : State) (a : Nat) : s.memRead a 1 = (s.omWord a).toNat := by
  simp [Memory.words, wordsVal]

theorem omWords_one (s : State) (a : Nat) : s.omWords a 1 = [s.omWord a] := by
  simp [Memory.words]

theorem memWrite_one_congr (s : State) (a : Nat) {u v : Nat} (h : u % 2 ^ 16 = v % 2 ^ 16) :
    s.memWrite a 1 u = s.memWrite a 1 v := by
  have hw : BitVec.ofNat 16 u = BitVec.ofNat 16 v := BitVec.eq_of_toNat_eq (by simpa using h)
  simp [State.memWrite, wordsOf, hw]

/-- R63 and R64: what an N = 1 form and its word form store, where they agree modulo `2^16` and in the carry. -/
theorem storeOne_congr (s : State) (a : Nat) {u v : Nat} {c c' : Bool} (h : u % 2 ^ 16 = v % 2 ^ 16) (hc : c = c') :
    (s.memWrite a 1 u).withCarry c = (s.memWrite a 1 v).withCarry c' := by
  rw [memWrite_one_congr s a h, hc]

theorem addWord_one_mod (x y : Word) : (x.toNat + y.toNat) % 2 ^ 16 = (addWord x y false).1.toNat % 2 ^ 16 := by
  rw [addWord_fst_toNat, Nat.mod_mod, Bool.toNat_false, Nat.add_zero]

theorem addCarry_one (x y : Word) : addCarry 1 x.toNat y.toNat = (addWord x y false).2 := by
  rw [addCarry, addWord_snd, decide_eq_decide, Bool.toNat_false]
  omega

theorem subValue_one_mod (x y : Word) :
    subValue 1 x.toNat y.toNat % 2 ^ 16 = (subWord x y false).1.toNat % 2 ^ 16 := by
  have hmp := subValue_mod 1 x.toNat y.toNat
  have hword := subWord_fst_toNat x y false
  rw [Bool.toNat_false] at hword
  omega

theorem subBorrow_one (x y : Word) : subBorrow x.toNat y.toNat = (subWord x y false).2 := by
  rw [subBorrow, subWord_snd, Bool.toNat_false, Nat.add_zero]

theorem mpBitLen_singleton (w : Word) : mpBitLen [w] = bitLen w := rfl

theorem mpIthBit_singleton (w : Word) : mpIthBit [w] = ithBit w := by
  funext k
  by_cases hk : k < 16
  · simp [mpIthBit, Nat.div_eq_of_lt hk, Nat.mod_eq_of_lt hk]
  · obtain ⟨q, hq⟩ : ∃ q, k / 16 = q + 1 := ⟨k / 16 - 1, by omega⟩
    simp [mpIthBit, ithBit, hq, BitVec.getLsbD_of_ge w k (by omega)]

/-- R80: for an exponent of one word, the controller of EXPMP is EXPW's. -/
theorem expmpCtrl_singleton (g : Nat) (w : Word) (c : Controller) : expmpCtrl g [w] c = expwCtrl g w c := by
  rw [expmpCtrl, mpBitLen_singleton, mpIthBit_singleton]
  rfl

end Sys2Proof.Machine
end

section
/-! The multiprecision family's statements. -/

namespace Sys2Proof.Machine

/-- Settles O10: the sum of the operands is read before the store, and its remainder is what the store keeps. -/
theorem addmpResult : Obligations.AddmpResult := by
  intro d a b n s h1 hmax hd ha hb
  obtain ⟨t, hnext, hkept⟩ := runCommand_storeValue (check_addmp_ok h1 hmax hd ha hb)
    (fun s => s.memRead a.toNat n.toNat + s.memRead b.toNat n.toNat)
    (fun s => addCarry n.toNat (s.memRead a.toNat n.toNat) (s.memRead b.toNat n.toNat)) d.toNat n.toNat
  exact ⟨t, (exec_addmp d a b n s).trans hnext, hkept⟩

/-- Settles O11, as O10, with the remainder of an integer difference. -/
theorem submpResult : Obligations.SubmpResult := by
  intro d a b n s h1 hmax hd ha hb
  obtain ⟨t, hnext, hval, hkept⟩ := runCommand_storeValue (check_submp_ok h1 hmax hd ha hb)
    (fun s => subValue n.toNat (s.memRead a.toNat n.toNat) (s.memRead b.toNat n.toNat))
    (fun s => subBorrow (s.memRead a.toNat n.toNat) (s.memRead b.toNat n.toNat)) d.toNat n.toNat
  refine ⟨t, (exec_submp d a b n s).trans hnext, ?_, hkept⟩
  rw [hval, subValue_mod]

/-- Settles O12: the product is stored whole, since it fits in 2N words. -/
theorem mulmpResult : Obligations.MulmpResult := by
  intro d a b n s h1 hmax hd ha hb
  obtain ⟨t, hnext, hval, hkept⟩ := runCommand_storeValue (check_mulmp_ok h1 hmax hd ha hb)
    (fun s => s.memRead a.toNat n.toNat * s.memRead b.toNat n.toNat) State.carry d.toNat (2 * n.toNat)
  refine ⟨t, (exec_mulmp d a b n s).trans hnext, ?_, hkept⟩
  rw [hval, Nat.mod_eq_of_lt (memRead_mul_memRead_lt s _ _ _)]

/-- Settles O13: the scan is the comparison of the values. -/
theorem cmpmpResult : Obligations.CmpmpResult := by
  intro a b n s h1 hmax ha hb
  refine ⟨_, (exec_cmpmp a b n s).trans (runCommand_ok (check_cmpmp_ok h1 hmax ha hb)), ?_, rfl, rfl, rfl⟩
  exact compareWords_eq_decide (by simp)

/-- Settles O14, from the frame of every command and the effects of these three, which keep the controller. -/
theorem multiprecisionFrame : Obligations.MultiprecisionFrame := by
  intro d a b n s t
  refine ⟨?_, fun h => ?_⟩
  · rintro (h | h)
    · have hf := exec_frame h
      exact ⟨hf.control, hf.ge_eq nofun, runCommand_ctrl rfl (exec_addmp d a b n s ▸ h), hf.omSameOutside rfl⟩
    · have hf := exec_frame h
      exact ⟨hf.control, hf.ge_eq nofun, runCommand_ctrl rfl (exec_submp d a b n s ▸ h), hf.omSameOutside rfl⟩
  · have hf := exec_frame h
    exact ⟨hf.control, hf.carry_eq (by simp [Instr.opcode]), hf.ge_eq nofun,
      runCommand_ctrl rfl (exec_mulmp d a b n s ▸ h), hf.omSameOutside rfl⟩

/-- Settles O15: completed or rejected, CMPMP keeps `om` itself. -/
theorem cmpmpFrame : Obligations.CmpmpFrame := by
  intro a b n s t h
  have hf := exec_frame h
  have hom := runCommand_om rfl (exec_cmpmp a b n s ▸ h)
  exact ⟨hf.control, hf.carry_eq (by simp [Instr.opcode]), runCommand_ctrl rfl (exec_cmpmp a b n s ▸ h), hom,
    fun x => congrArg (Memory.word · x) hom⟩

/-- Settles O16: a chain does to its operands' values what its word function does to one word. -/
theorem wordChainsAreClosedForms : Obligations.WordChainsAreClosedForms :=
  fun _ _ h => ⟨chainWords_addWord h, chainWords_subWord h⟩

/-- Settles O17, from the loop's product for operands of any two lengths. -/
theorem schoolbookIsExactProduct : Obligations.SchoolbookIsExactProduct := by
  intro x y h
  obtain ⟨hlen, hval⟩ := schoolbook_exact x y
  exact ⟨by omega, hval⟩

/-- Settles O32: each pair has the same operands, so the same checks, and the same effect. -/
theorem oneWordForms : Obligations.OneWordForms := by
  intro d a b s hmax
  refine ⟨?_, ?_, ?_⟩
  · rw [exec_addmp, exec_addw, wordLen_one_toNat]
    refine runCommand_congr (check_eq_of_wordlen_one hmax rfl rfl rfl) (storeOne_congr s _ ?_ ?_)
    · rw [memRead_one, memRead_one, addWord_one_mod]
    · rw [memRead_one, memRead_one, addCarry_one]
  · rw [exec_submp, exec_subw, wordLen_one_toNat]
    refine runCommand_congr (check_eq_of_wordlen_one hmax rfl rfl rfl) (storeOne_congr s _ ?_ ?_)
    · rw [memRead_one, memRead_one, subValue_one_mod]
    · rw [memRead_one, memRead_one, subBorrow_one]
  · rw [exec_expmp, exec_expw, wordLen_one_toNat]
    refine runCommand_congr (check_eq_of_wordlen_one hmax rfl rfl rfl) ?_
    simp only [omWords_one, expmpCtrl_singleton]

/-- Settles O18: 32 bits hold every product of two words. -/
theorem wordMultiplyExact : Obligations.WordMultiplyExact := by
  intro x y
  rw [mul16_toNat]
  exact ⟨rfl, word_mul_le x y⟩

end Sys2Proof.Machine
end

section
/-! Lemmas of the P-192 field family: 42_p192_field.md R69 to R74. The reduction engine returns the residue, and
its two commands store that residue whole. -/

namespace Sys2Proof.Machine

variable {s : State} {i : Instr} {p : Params} {d a b : OmAddr} {c x y z : Nat}

/-! ### The modular adder (R69) and a slice reduced once (R71) -/

theorem mod_p192_lt (x : Nat) : x % p192 < p192 := Nat.mod_lt _ (by decide)

/-- One subtraction of `p` is enough below `2p`. -/
theorem preReduce_eq_mod (h : x < 2 * p192) : preReduce x = x % p192 := by
  unfold preReduce
  split
  case isTrue hle => rw [Nat.mod_eq_sub_mod hle, Nat.mod_eq_of_lt (by omega)]
  case isFalse hlt => rw [Nat.mod_eq_of_lt (by omega)]

/-- R71: a 12-word value is below `2p`. -/
theorem preReduce_eq_mod_of_lt_two_pow (h : x < 2 ^ 192) : preReduce x = x % p192 :=
  preReduce_eq_mod (h.trans (by decide))

/-- R69: the adder subtracts `p` once from the exact sum, also where that sum carries out of 192 bits. -/
theorem addModP_eq_preReduce (hx : x < p192) (hy : y < p192) : addModP x y = preReduce (x + y) := by
  have hspecial := two_pow_192_eq_p192_add
  simp only [addModP, preReduce]
  split
  case isTrue hcarry =>
    have hsum : (x + y) % 2 ^ 192 = x + y - 2 ^ 192 := by
      rw [Nat.mod_eq_sub_mod hcarry, Nat.mod_eq_of_lt (by omega)]
    rw [if_pos (by omega), hsum, Nat.mod_eq_of_lt (by omega)]
    omega
  case isFalse => rfl

theorem addModP_eq_mod (hx : x < p192) (hy : y < p192) : addModP x y = (x + y) % p192 := by
  rw [addModP_eq_preReduce hx hy, preReduce_eq_mod (by omega)]

theorem addModP_lt (hx : x < p192) (hy : y < p192) : addModP x y < p192 := by
  rw [addModP_eq_mod hx hy]
  exact mod_p192_lt _

theorem addModP_mod_mod (x y : Nat) : addModP (x % p192) (y % p192) = (x + y) % p192 := by
  rw [addModP_eq_mod (mod_p192_lt x) (mod_p192_lt y), ← Nat.add_mod]

/-! ### The slices (R70, R71) -/

theorem block_lt (c j : Nat) : block c j < 2 ^ 64 := Nat.mod_lt _ (by decide)

theorem slice3_lt (hx : x < 2 ^ 64) (hy : y < 2 ^ 64) (hz : z < 2 ^ 64) : slice3 x y z < 2 ^ 192 := by
  unfold slice3
  omega

theorem slice3_zero_lt (hx : x < 2 ^ 64) (hy : y < 2 ^ 64) : slice3 x y 0 < 2 ^ 128 := by
  unfold slice3
  omega

theorem sliceT_lt (c : Nat) : sliceT c < 2 ^ 192 := slice3_lt (block_lt c 0) (block_lt c 1) (block_lt c 2)

theorem sliceS1_lt (c : Nat) : sliceS1 c < 2 ^ 128 := slice3_zero_lt (block_lt c 3) (block_lt c 3)

theorem sliceS2_lt (c : Nat) : sliceS2 c < 2 ^ 192 := slice3_lt (by decide) (block_lt c 4) (block_lt c 4)

theorem sliceS3_lt (c : Nat) : sliceS3 c < 2 ^ 192 := slice3_lt (block_lt c 5) (block_lt c 5) (block_lt c 5)

theorem slice_lt (h : x ∈ [sliceT c, sliceS1 c, sliceS2 c, sliceS3 c]) : x < 2 ^ 192 := by
  simp only [List.mem_cons, List.not_mem_nil, or_false] at h
  rcases h with rfl | rfl | rfl | rfl
  · exact sliceT_lt c
  · exact (sliceS1_lt c).trans (by decide)
  · exact sliceS2_lt c
  · exact sliceS3_lt c

/-- R70: the six blocks are the digits of a 24-word value to the base 2^64. -/
theorem sum_blocks (h : c < 2 ^ 384) :
    block c 0 + block c 1 * 2 ^ 64 + block c 2 * 2 ^ 128 + block c 3 * 2 ^ 192 + block c 4 * 2 ^ 256
      + block c 5 * 2 ^ 320 = c := by
  simp only [block_eq]
  omega

/-- R70: folding the blocks `C3`, `C4` and `C5` down by `2^192 = p + 2^64 + 1` leaves the slices; `C5` folds twice. -/
theorem slices_add_multiple (h : c < 2 ^ 384) :
    sliceT c + sliceS1 c + sliceS2 c + sliceS3 c
      + p192 * (block c 3 + block c 4 * 2 ^ 64 + block c 5 * (2 ^ 128 + 1)) = c := by
  conv_rhs => rw [← sum_blocks h]
  unfold sliceT sliceS1 sliceS2 sliceS3 slice3 p192
  omega

theorem slices_mod (h : c < 2 ^ 384) : (sliceT c + sliceS1 c + sliceS2 c + sliceS3 c) % p192 = c % p192 := by
  conv_rhs => rw [← slices_add_multiple h, Nat.add_mul_mod_self_left]

/-! ### The reduction engine (R72, R74) -/

/-- R72: the three modular additions add the residues of the slices. -/
theorem redP_eq_slices_mod (c : Nat) : redP c = (sliceT c + sliceS1 c + sliceS2 c + sliceS3 c) % p192 := by
  rw [redP, preReduce_eq_mod_of_lt_two_pow (sliceT_lt c),
    preReduce_eq_mod_of_lt_two_pow ((sliceS1_lt c).trans (by decide)),
    preReduce_eq_mod_of_lt_two_pow (sliceS2_lt c), preReduce_eq_mod_of_lt_two_pow (sliceS3_lt c)]
  simp only [addModP_mod_mod]

theorem redP_lt (c : Nat) : redP c < p192 := by
  rw [redP_eq_slices_mod]
  exact mod_p192_lt _

theorem redP_eq_mod (h : c < 2 ^ 384) : redP c = c % p192 := by
  rw [redP_eq_slices_mod, slices_mod h]

theorem mulP_lt (x y : Nat) : mulP x y < p192 := redP_lt (x * y)

/-- R74: the product of two 12-word values, reduced or not, fits in the reduction engine's 24 words. -/
theorem mulP_eq_mod (hx : x < 2 ^ 192) (hy : y < 2 ^ 192) : mulP x y = x * y % p192 :=
  redP_eq_mod (by rw [Nat.pow_add 2 192 192]; exact Nat.mul_lt_mul'' hx hy)

/-! ### Commands that store a field element (R73, R74) -/

theorem check_red192_ok (hd : d.toNat + 12 ≤ p.omWords) (ha : a.toNat + 24 ≤ p.omWords) :
    (Instr.red192 d a).check p = .ok := by
  simp [check_ok_iff, Instr.wordlen, Instr.operands, Instr.sources, Instr.dstRange, Instr.srcARange,
    Instr.srcBRange, fieldWords, prodWords, hd, ha]

theorem check_mulp192_ok (hd : d.toNat + 12 ≤ p.omWords) (ha : a.toNat + 12 ≤ p.omWords)
    (hb : b.toNat + 12 ≤ p.omWords) : (Instr.mulp192 d a b).check p = .ok := by
  simp [check_ok_iff, Instr.wordlen, Instr.operands, Instr.sources, Instr.dstRange, Instr.srcARange,
    Instr.srcBRange, fieldWords, hd, ha, hb]

/-- A command whose effect is a field element of the state before it completes, with the element whole in 12 words. -/
theorem runCommand_storeFieldElement (hc : i.check s.params = .ok) (v : State → Nat) (hv : v s < p192)
    (d : Nat) :
    ∃ t, runCommand i s (fun s => s.memWrite d 12 (v s)) = .next t
      ∧ t.memRead d 12 = v s ∧ t.carry = s.carry ∧ t.ge = s.ge ∧ Completed t := by
  have hfits : v s < 2 ^ (16 * 12) := hv.trans (by decide)
  have hval : (s.memWrite d 12 (v s)).memRead d 12 = v s := by rw [memRead_memWrite, Nat.mod_eq_of_lt hfits]
  exact ⟨_, runCommand_ok hc, hval, rfl, rfl, rfl, rfl⟩

end Sys2Proof.Machine
end

section
/-! The P-192 field family's statements. -/

namespace Sys2Proof.Machine

/-- Settles O20: the adder subtracts `p` at most once from a sum below `2p`. -/
theorem modularAdder : Obligations.ModularAdder :=
  fun _ _ hx hy => ⟨addModP_eq_mod hx hy, addModP_lt hx hy⟩

/-- Settles O21: the slices differ from the value by a multiple of `p`. -/
theorem slicesCongruent : Obligations.SlicesCongruent := fun _ h => slices_mod h

/-- Settles O22, from the bounds of the blocks. -/
theorem slicesReducedOnce : Obligations.SlicesReducedOnce := by
  intro c x hx
  have hlt := slice_lt hx
  exact ⟨hlt, preReduce_lt hlt, preReduce_eq_mod_of_lt_two_pow hlt, sliceS1_lt c⟩

/-- Settles O23: the engine's additions give the residue of the sum of the slices, which is that of the value. -/
theorem reductionIsResidue : Obligations.ReductionIsResidue := fun c h => ⟨redP_eq_mod h, redP_lt c⟩

/-- Settles O24: the source is a 24-word value, and its residue fits in 12 words. -/
theorem red192Result : Obligations.Red192Result := by
  intro d a s hd ha
  have hsrc : s.memRead a.toNat 24 < 2 ^ 384 := by
    rw [show 384 = 16 * 24 from rfl]
    exact memRead_lt s a.toNat 24
  obtain ⟨t, hnext, hval, hkept⟩ := runCommand_storeFieldElement (check_red192_ok hd ha)
    (fun s => redP (s.memRead a.toNat 24)) (redP_lt _) d.toNat
  exact ⟨t, (exec_red192 d a s).trans hnext, hval.trans (redP_eq_mod hsrc), hkept⟩

/-- Settles O25, as O24, with the product of two 12-word values. -/
theorem mulp192Result : Obligations.Mulp192Result := by
  intro d a b s hd ha hb
  obtain ⟨t, hnext, hval, hkept⟩ := runCommand_storeFieldElement (check_mulp192_ok hd ha hb)
    (fun s => mulP (s.memRead a.toNat 12) (s.memRead b.toNat 12)) (mulP_lt _ _) d.toNat
  exact ⟨t, (exec_mulp192 d a b s).trans hnext,
    hval.trans (mulP_eq_mod (memRead_lt s _ 12) (memRead_lt s _ 12)), hkept⟩

/-- Settles O26, from the frame of every command and the effects of these two, which keep the controller. -/
theorem fieldCommandsFrame : Obligations.FieldCommandsFrame := by
  intro d a b i s t hi h
  have hf := exec_frame h
  rcases hi with rfl | rfl
  · exact ⟨hf.control, hf.carry_eq (by simp [Instr.opcode]), hf.ge_eq nofun,
      runCommand_ctrl rfl (exec_red192 d a s ▸ h), hf.omSameOutside rfl⟩
  · exact ⟨hf.control, hf.carry_eq (by simp [Instr.opcode]), hf.ge_eq nofun,
      runCommand_ctrl rfl (exec_mulp192 d a b s ▸ h), hf.omSameOutside rfl⟩

end Sys2Proof.Machine
end

section
/-! Lemmas of the exponentiation family about bits: 43_modexp.md R75, R76. A bit function reads the bit of a value,
a top-bit function finds the value's most significant set bit; and a value's leading bits. -/

namespace Sys2Proof.Machine

/-! ### Bits (R75) -/

theorem ithBit_eq_testBit (w : Word) : ithBit w = w.toNat.testBit := by
  funext i
  exact (BitVec.testBit_toNat w).symm

theorem wordsVal_cons_testBit (w : Word) (ws : List Word) (i : Nat) :
    (wordsVal (w :: ws)).testBit i = if i < 16 then w.toNat.testBit i else (wordsVal ws).testBit (i - 16) := by
  rw [wordsVal, Nat.add_comm, Nat.testBit_two_pow_mul_add _ w.isLt]

/-- R75; above the words of `E` both sides read 0. -/
theorem mpIthBit_eq_testBit (e : List Word) : mpIthBit e = (wordsVal e).testBit := by
  funext i
  induction e generalizing i with
  | nil => simp [mpIthBit, ithBit, wordsVal]
  | cons w ws ih =>
    rw [wordsVal_cons_testBit]
    by_cases hi : i < 16
    · simp [mpIthBit, ithBit_eq_testBit, hi, Nat.div_eq_of_lt, Nat.mod_eq_of_lt]
    · obtain ⟨j, rfl⟩ : ∃ j, i = j + 16 := ⟨i - 16, by omega⟩
      rw [if_neg hi, Nat.add_sub_cancel, ← ih]
      simp [mpIthBit]

/-! ### The top bit (R76) -/

/-- The answer of a top-bit function for the value `v`: the index of its most significant set bit, none for 0. -/
def IsTopBit (v : Nat) : Option Nat → Prop
  | none => v = 0
  | some t => v.testBit t = true ∧ v < 2 ^ (t + 1)

theorem IsTopBit.exists_of_ne_zero {v : Nat} {top : Option Nat} (h : IsTopBit v top) (hv : v ≠ 0) :
    ∃ t, top = some t ∧ v.testBit t = true ∧ v < 2 ^ (t + 1) := by
  cases top with
  | none => exact absurd h hv
  | some t => exact ⟨t, rfl, h⟩

theorem lt_of_testBit_of_lt_two_pow {v t n : Nat} (ht : v.testBit t = true) (hv : v < 2 ^ n) : t < n :=
  (Nat.pow_lt_pow_iff_right (by decide)).1 (lt_of_le_of_lt (Nat.ge_two_pow_of_testBit ht) hv)

theorem topBitBelow_isTopBit (w : Word) (k : Nat) : IsTopBit (w.toNat % 2 ^ k) (topBitBelow w k) := by
  induction k with
  | zero => exact Nat.mod_one _
  | succ k ih =>
    rw [topBitBelow, ← BitVec.testBit_toNat]
    split
    case isTrue hbit =>
      refine ⟨?_, Nat.mod_lt _ (by positivity)⟩
      rw [Nat.testBit_mod_two_pow, hbit]
      simp
    case isFalse hbit =>
      have hdrop : w.toNat % 2 ^ (k + 1) = w.toNat % 2 ^ k := by
        rw [Nat.mod_pow_succ, ← Nat.toNat_testBit, Bool.eq_false_of_not_eq_true hbit]
        simp
      rwa [hdrop]

theorem bitLen_isTopBit (w : Word) : IsTopBit w.toNat (bitLen w) := by
  have htop := topBitBelow_isTopBit w 16
  rwa [Nat.mod_eq_of_lt w.isLt] at htop

/-- The top bit of a value is that of its upper words, if one of them is nonzero, else that of its lowest word. -/
theorem mpBitLen_isTopBit (e : List Word) : IsTopBit (wordsVal e) (mpBitLen e) := by
  induction e with
  | nil => rfl
  | cons w ws ih =>
    rw [mpBitLen]
    cases htop : mpBitLen ws with
    | none =>
      have hzero : wordsVal ws = 0 := by simpa [htop, IsTopBit] using ih
      simpa [wordsVal, hzero] using bitLen_isTopBit w
    | some t =>
      rw [htop] at ih
      obtain ⟨hbit, hlt⟩ := ih
      refine ⟨?_, ?_⟩
      · rw [wordsVal_cons_testBit, if_neg (by omega), Nat.add_sub_cancel_left, hbit]
      · have hw := w.isLt
        rw [wordsVal, Nat.add_assoc, Nat.pow_add]
        omega

/-! ### The leading bits of a value -/

/-- The bits of a value from bit `i` up are those above `i`, then bit `i`. -/
theorem div_two_pow_eq_add_testBit (v i : Nat) :
    v / 2 ^ i = 2 * (v / 2 ^ (i + 1)) + (v.testBit i).toNat := by
  rw [Nat.toNat_testBit, Nat.pow_succ, ← Nat.div_div_eq_div_mul, Nat.div_add_mod]

theorem popcountBelow_succ (v k : Nat) : popcountBelow v (k + 1) = popcountBelow v k + (v.testBit k).toNat := by
  rw [popcountBelow]
  cases v.testBit k <;> rfl

theorem popcountBelow_le (v k : Nat) : popcountBelow v k ≤ k := by
  induction k with
  | zero => exact Nat.le_refl 0
  | succ k ih =>
    have hbit := Bool.toNat_le (v.testBit k)
    rw [popcountBelow_succ]
    omega

end Sys2Proof.Machine
end

section
/-! Lemmas of the exponentiation family about the controller: 43_modexp.md R77, R78, R81. What one bit of the exponent
does to the accumulator and the counts, the controller from a bit down to DONE, and the two commands. -/

namespace Sys2Proof.Machine

variable {g v x y sq mul i k n : Nat} {top : Option Nat} {bit : Nat → Bool} {c : Controller}

/-! ### The power in the accumulator (R78) -/

/-- The work done so far: the accumulator holds `g^x mod p`, for a base of 12 words, after `sq` squarings and `mul`
multiplications. The phase and the indexes are free. -/
structure Controller.Computed (g x sq mul : Nat) (c : Controller) : Prop where
  acc : g < 2 ^ 192 → c.acc.toNat = g ^ x % p192
  squarings : c.squarings = sq
  multiplications : c.multiplications = mul

/-- `g^0 = 1` for every base (R78): what INIT leaves. -/
theorem Controller.Computed.of_cleared (hacc : c.acc = 1) (hsq : c.squarings = 0) (hmul : c.multiplications = 0) :
    c.Computed g 0 0 0 :=
  ⟨fun _ => by rw [hacc, Nat.pow_zero]; rfl, hsq, hmul⟩

theorem Controller.Computed.withPhase (h : c.Computed g x sq mul) (phase : ExpPhase) (idx : Nat) :
    Controller.Computed g x sq mul { c with phase := phase, idx := idx } :=
  ⟨h.acc, h.squarings, h.multiplications⟩

/-- A counted squaring whose product is `a`. The product is a variable here, so that the facts about the other fields
do not unfold the reduction engine. -/
def Controller.countSquaring (a : BitVec 192) (c : Controller) : Controller :=
  { c with acc := a, squarings := c.squarings + 1 }

/-- A counted multiplication whose product is `a`. -/
def Controller.countMultiplication (a : BitVec 192) (c : Controller) : Controller :=
  { c with acc := a, multiplications := c.multiplications + 1 }

/-- SQUARE's work (R77). -/
def Controller.squared (c : Controller) : Controller :=
  c.countSquaring (BitVec.ofNat 192 (mulP c.acc.toNat c.acc.toNat))

/-- MULTIPLY's work (R77). -/
def Controller.multiplied (g : Nat) (c : Controller) : Controller :=
  c.countMultiplication (BitVec.ofNat 192 (mulP c.acc.toNat g))

/-- The work for one bit of the exponent, `b` (R77). -/
def Controller.processed (g : Nat) (b : Bool) (c : Controller) : Controller :=
  if b then c.squared.multiplied g else c.squared

theorem Controller.countSquaring_idx (a : BitVec 192) (c : Controller) : (c.countSquaring a).idx = c.idx := rfl

theorem Controller.countMultiplication_idx (a : BitVec 192) (c : Controller) :
    (c.countMultiplication a).idx = c.idx := rfl

theorem Controller.processed_idx (g : Nat) (b : Bool) (c : Controller) : (c.processed g b).idx = c.idx := by
  cases b with
  | false => exact Controller.countSquaring_idx _ c
  | true => exact (Controller.countMultiplication_idx _ _).trans (Controller.countSquaring_idx _ c)

theorem Controller.Computed.countSquaring {a : BitVec 192} (h : c.Computed g x sq mul)
    (ha : g < 2 ^ 192 → a.toNat = g ^ y % p192) : (c.countSquaring a).Computed g y (sq + 1) mul :=
  ⟨ha, congrArg (· + 1) h.squarings, h.multiplications⟩

theorem Controller.Computed.countMultiplication {a : BitVec 192} (h : c.Computed g x sq mul)
    (ha : g < 2 ^ 192 → a.toNat = g ^ y % p192) : (c.countMultiplication a).Computed g y sq (mul + 1) :=
  ⟨ha, h.squarings, congrArg (· + 1) h.multiplications⟩

/-- A product of the reduction engine fits in the accumulator. -/
theorem acc_mulP_toNat (x y : Nat) : (BitVec.ofNat 192 (mulP x y)).toNat = mulP x y := by
  rw [BitVec.toNat_ofNat, Nat.mod_eq_of_lt ((mulP_lt x y).trans (by decide))]

theorem Controller.Computed.squared (h : c.Computed g x sq mul) : c.squared.Computed g (2 * x) (sq + 1) mul := by
  refine h.countSquaring fun hg => ?_
  rw [acc_mulP_toNat, mulP_eq_mod c.acc.isLt c.acc.isLt, h.acc hg, ← Nat.mul_mod, ← Nat.pow_add, Nat.two_mul]

theorem Controller.Computed.multiplied (h : c.Computed g x sq mul) :
    (c.multiplied g).Computed g (x + 1) sq (mul + 1) := by
  refine h.countMultiplication fun hg => ?_
  rw [acc_mulP_toNat, mulP_eq_mod c.acc.isLt hg, h.acc hg, Nat.mod_mul_mod, Nat.pow_succ]

/-- One bit of the exponent doubles the power's exponent and adds the bit. -/
theorem Controller.Computed.processed (h : c.Computed g x sq mul) (b : Bool) :
    (c.processed g b).Computed g (2 * x + b.toNat) (sq + 1) (mul + b.toNat) := by
  cases b with
  | false => exact h.squared
  | true => exact h.squared.multiplied

/-! ### The controller's run (R77) -/

theorem Controller.advance_zero (h : c.idx = 0) : c.advance = { c with phase := .done } := if_pos h

theorem Controller.advance_succ (h : c.idx = i + 1) : c.advance = { c with phase := .square, idx := i } := by
  simp [Controller.advance, h]

/-- From SQUARE, one transition or two process the bit and go to NEXT. -/
theorem Controller.run_square (h : c.phase = .square) (k : Nat) :
    ∃ k', k ≤ k' ∧ Controller.run g top bit (k + 2) c
      = Controller.run g top bit k' (c.processed g (bit c.idx)).advance := by
  rw [Controller.run_step _ (by simp [h]), Controller.step_square h]
  cases bit c.idx with
  | false => exact ⟨k + 1, Nat.le_succ k, rfl⟩
  | true => exact ⟨k, Nat.le_refl k, Controller.run_step k nofun⟩

/-- From SQUARE at bit `i`, with the bits above it processed, the controller comes to NEXT with bit `i` processed. -/
theorem Controller.run_to_next (hphase : c.phase = .square) (hidx : c.idx = i)
    (h : c.Computed g (v / 2 ^ (i + 1)) sq mul) (hk : 2 * (i + 1) ≤ k) :
    ∃ (k' : Nat) (c' : Controller), 2 * i ≤ k'
      ∧ Controller.run g top v.testBit k c = Controller.run g top v.testBit k' c'.advance
      ∧ c'.idx = i ∧ c'.Computed g (v / 2 ^ i) (sq + 1) (mul + (v.testBit i).toNat) := by
  obtain ⟨k, rfl⟩ : ∃ k₀, k = k₀ + 2 := ⟨k - 2, by omega⟩
  obtain ⟨k', hk', hrun⟩ := Controller.run_square (g := g) (top := top) (bit := v.testBit) hphase k
  have hbit := h.processed (v.testBit i)
  rw [← div_two_pow_eq_add_testBit] at hbit
  rw [hidx] at hrun
  exact ⟨k', _, by omega, hrun, (Controller.processed_idx _ _ _).trans hidx, hbit⟩

/-- From SQUARE at bit `i`, with the bits above it processed, the controller ends in DONE with all bits processed. -/
theorem Controller.run_from_bit (hphase : c.phase = .square) (hidx : c.idx = i)
    (h : c.Computed g (v / 2 ^ (i + 1)) sq mul) (hk : 2 * (i + 1) ≤ k) :
    (Controller.run g top v.testBit k c).phase = .done
      ∧ (Controller.run g top v.testBit k c).Computed g v (sq + (i + 1)) (mul + popcountBelow v (i + 1)) := by
  induction i generalizing k c sq mul with
  | zero =>
    obtain ⟨k', c', -, hrun, hidx', hbit⟩ := Controller.run_to_next (top := top) hphase hidx h hk
    rw [Nat.pow_zero, Nat.div_one] at hbit
    rw [hrun, Controller.advance_zero hidx', Controller.run_done _ rfl, popcountBelow_succ, popcountBelow,
      Nat.zero_add, Nat.zero_add]
    exact ⟨rfl, hbit.withPhase .done _⟩
  | succ i ih =>
    obtain ⟨k', c', hk', hrun, hidx', hbit⟩ := Controller.run_to_next (top := top) hphase hidx h hk
    have hsq : sq + (i + 1 + 1) = sq + 1 + (i + 1) := by omega
    rw [hrun, Controller.advance_succ hidx', popcountBelow_succ _ (i + 1), hsq, Nat.add_comm (popcountBelow _ _),
      ← Nat.add_assoc mul]
    exact ih rfl rfl (hbit.withPhase .square i) hk'

/-- How many bits the controller processes: none for a zero exponent, else the top bit and those below (R81). -/
def bitsProcessed : Option Nat → Nat
  | none => 0
  | some t => t + 1

/-- R77, R78, R81: for an exponent `v` of `n` words the controller ends in DONE with `g^v mod p`. -/
theorem runExp_computed (htop : IsTopBit v top) (hv : v < 2 ^ (16 * n)) :
    (runExp g n top v.testBit c).phase = .done
      ∧ (runExp g n top v.testBit c).Computed g v (bitsProcessed top) (popcountBelow v (bitsProcessed top)) := by
  rw [runExp, Controller.run_step _ (by simp)]
  cases top with
  | none =>
    obtain rfl : v = 0 := htop
    rw [Controller.step_init_zero rfl, Controller.run_done _ rfl]
    exact ⟨rfl, .of_cleared rfl rfl rfl⟩
  | some t =>
    obtain ⟨hbit, hlt⟩ := htop
    have ht := lt_of_testBit_of_lt_two_pow hbit hv
    have hstart : Controller.Computed g (v / 2 ^ (t + 1)) 0 0 ⟨.square, t, t, 1, 0, 0⟩ := by
      rw [Nat.div_eq_of_lt hlt]
      exact .of_cleared rfl rfl rfl
    have hrun := Controller.run_from_bit (top := some t) (i := t) (k := 32 * n) rfl rfl hstart (by omega)
    rw [Controller.step_init_nonzero rfl]
    rwa [Nat.zero_add, Nat.zero_add] at hrun

theorem expwCtrl_computed (g : Nat) (e : Word) (c : Controller) :
    (expwCtrl g e c).phase = .done
      ∧ (expwCtrl g e c).Computed g e.toNat (bitsProcessed (bitLen e))
          (popcountBelow e.toNat (bitsProcessed (bitLen e))) := by
  rw [expwCtrl, ithBit_eq_testBit]
  exact runExp_computed (bitLen_isTopBit e) e.isLt

theorem expmpCtrl_computed (g : Nat) (e : List Word) (c : Controller) :
    (expmpCtrl g e c).phase = .done
      ∧ (expmpCtrl g e c).Computed g (wordsVal e) (bitsProcessed (mpBitLen e))
          (popcountBelow (wordsVal e) (bitsProcessed (mpBitLen e))) := by
  rw [expmpCtrl, mpIthBit_eq_testBit]
  exact runExp_computed (mpBitLen_isTopBit e) (wordsVal_lt e)

/-- R81: the count of multiplications is at least 1 because the top bit is set. -/
theorem Controller.Computed.workCounts (htop : IsTopBit v top)
    (h : c.Computed g v (bitsProcessed top) (popcountBelow v (bitsProcessed top))) : WorkCounts v top c := by
  cases top with
  | none =>
    obtain rfl : v = 0 := htop
    exact ⟨fun _ => ⟨h.squarings, h.multiplications⟩, fun hv => absurd rfl hv⟩
  | some t =>
    obtain ⟨hbit, hlt⟩ := htop
    have hpos : 1 ≤ popcountBelow v (t + 1) := by simp [popcountBelow_succ, hbit]
    have hne : v ≠ 0 := by rintro rfl; simp at hbit
    exact ⟨fun hv => absurd hv hne, fun _ => ⟨t, rfl, hbit, hlt, h.squarings, h.multiplications,
      h.multiplications.symm ▸ hpos, h.multiplications.symm ▸ popcountBelow_le v (t + 1)⟩⟩

/-! ### The commands (R79, R80) -/

section Commands

variable {s : State} {j : Instr} {p : Params} {d b e : OmAddr} {w : WordLen}

theorem check_expw_ok (hd : d.toNat + 12 ≤ p.omWords) (hb : b.toNat + 12 ≤ p.omWords)
    (he : e.toNat + 1 ≤ p.omWords) : (Instr.expw d b e).check p = .ok := by
  simp [check_ok_iff, Instr.wordlen, Instr.operands, Instr.sources, Instr.dstRange, Instr.srcARange,
    Instr.srcBRange, fieldWords, hd, hb, he]

theorem check_expmp_ok (h1 : 1 ≤ w.toNat) (hmax : w.toNat ≤ p.nmax) (hd : d.toNat + 12 ≤ p.omWords)
    (hb : b.toNat + 12 ≤ p.omWords) (he : e.toNat + w.toNat ≤ p.omWords) :
    (Instr.expmp d b e w).check p = .ok := by
  simp [check_ok_iff, Instr.wordlen, Instr.operands, Instr.sources, Instr.dstRange, Instr.srcARange,
    Instr.srcBRange, fieldWords, h1, hmax, hd, hb, he]

/-- A command whose effect is the controller's run and its accumulator completes, with the accumulator whole in
12 words. -/
theorem runCommand_storeAcc (hc : j.check s.params = .ok) (r : State → Controller) (a : Nat) :
    ∃ t, runCommand j s (fun s => (s.withCtrl (r s)).memWrite a 12 (r s).acc.toNat) = .next t
      ∧ t.memRead a 12 = (r s).acc.toNat ∧ t.carry = s.carry ∧ t.ge = s.ge ∧ Completed t := by
  have hval : ((s.withCtrl (r s)).memWrite a 12 (r s).acc.toNat).memRead a 12 = (r s).acc.toNat := by
    rw [memRead_memWrite, Nat.mod_eq_of_lt (r s).acc.isLt]
  exact ⟨_, runCommand_ok hc, hval, rfl, rfl, rfl, rfl⟩

end Commands

end Sys2Proof.Machine
end

section
/-! The exponentiation family's statements. -/

namespace Sys2Proof.Machine

/-- Settles O27: word by word, a bit of the words is the bit of their value. -/
theorem bitExtraction : Obligations.BitExtraction :=
  ⟨fun w i _ => congrFun (ithBit_eq_testBit w) i, fun e i _ => ⟨rfl, congrFun (mpIthBit_eq_testBit e) i⟩⟩

/-- Settles O28: a nonzero value has a top bit, which is below 16 in a word. -/
theorem topBitIndex : Obligations.TopBitIndex := by
  refine ⟨fun w hw => ?_, fun e he => (mpBitLen_isTopBit e).exists_of_ne_zero he⟩
  have hne : w.toNat ≠ 0 := fun h => hw (BitVec.eq_of_toNat_eq h)
  obtain ⟨t, htop, hbit, hlt⟩ := (bitLen_isTopBit w).exists_of_ne_zero hne
  have ht := lt_of_testBit_of_lt_two_pow hbit w.isLt
  exact ⟨t, htop, by omega, hbit, hlt⟩

/-- Settles O29: the controller's accumulator is the power, and it fits in 12 words. -/
theorem expwResult : Obligations.ExpwResult := by
  intro d g e s hd hg he
  obtain ⟨t, hnext, hval, hkept⟩ := runCommand_storeAcc (check_expw_ok hd hg he)
    (fun s => expwCtrl (s.memRead g.toNat 12) (s.omWord e.toNat) s.ctrl) d.toNat
  obtain ⟨-, hcomp⟩ := expwCtrl_computed (s.memRead g.toNat 12) (s.omWord e.toNat) s.ctrl
  exact ⟨t, (exec_expw d g e s).trans hnext, hval.trans (hcomp.acc (memRead_lt s _ 12)), hkept⟩

/-- Settles O30, as O29, with an exponent of N words. -/
theorem expmpResult : Obligations.ExpmpResult := by
  intro d g e n s h1 hmax hd hg he
  obtain ⟨t, hnext, hval, hkept⟩ := runCommand_storeAcc (check_expmp_ok h1 hmax hd hg he)
    (fun s => expmpCtrl (s.memRead g.toNat 12) (s.omWords e.toNat n.toNat) s.ctrl) d.toNat
  obtain ⟨-, hcomp⟩ := expmpCtrl_computed (s.memRead g.toNat 12) (s.omWords e.toNat n.toNat) s.ctrl
  exact ⟨t, (exec_expmp d g e n s).trans hnext, hval.trans (hcomp.acc (memRead_lt s _ 12)), hkept⟩

/-- Settles O31: INIT clears the counts, and each bit from the top one down adds its own work. -/
theorem controllerWorkCounts : Obligations.ControllerWorkCounts := by
  refine fun g c => ⟨fun e => ?_, fun e => ?_⟩
  · obtain ⟨hdone, hcomp⟩ := expwCtrl_computed g e c
    exact ⟨hdone, hcomp.workCounts (bitLen_isTopBit e)⟩
  · obtain ⟨hdone, hcomp⟩ := expmpCtrl_computed g e c
    exact ⟨hdone, hcomp.workCounts (mpBitLen_isTopBit e)⟩

/-- Settles O33, from the frame of every command. -/
theorem exponentiationFrame : Obligations.ExponentiationFrame := by
  intro d g e n i s t hi h
  have hf := exec_frame h
  rcases hi with rfl | rfl <;>
    exact ⟨hf.control, hf.carry_eq (by simp [Instr.opcode]), hf.ge_eq nofun, hf.omSameOutside rfl⟩

end Sys2Proof.Machine
end

section
/-! Lemmas of the checks and submission family: 60_exceptions.md R82 to R90. Which check answers which code, what a
submission does with the answer, and how a command comes to its completion. -/

namespace Sys2Proof.Machine

variable {s : State} {c : Cmd} {i : Instr} {p : Params} {code : ErrCode}

/-! ### The answers of the four checks (R84) -/

/-- The decoder's codes: ERR_OPC for a reserved OPC, ERR_FIELD for a legal one that fails the mask test. -/
theorem decode_eq_error_iff :
    decode c = .error code ↔ (code = .opc ∧ Opcode.ofCode (cmdOpc c) = none)
      ∨ (code = .field ∧ ∃ op, Opcode.ofCode (cmdOpc c) = some op ∧ c &&& op.mask ≠ op.pattern) := by
  unfold decode
  cases Opcode.ofCode (cmdOpc c) with
  | none => simp [eq_comm]
  | some op => by_cases hmask : c &&& op.mask = op.pattern <;> simp [hmask, eq_comm]

theorem check_eq_len_iff : i.check p = .len ↔ ∃ n, i.wordlen = some n ∧ ¬ (1 ≤ n ∧ n ≤ p.nmax) := by
  rw [check_len_iff, ← Bool.not_eq_true, lenOk_iff]
  push Not
  rfl

theorem check_eq_range_iff :
    i.check p = .range ↔ (∀ n, i.wordlen = some n → 1 ≤ n ∧ n ≤ p.nmax)
      ∧ ∃ r ∈ i.operands, p.omWords < r.base + r.len := by
  rw [check_range_iff, lenOk_iff, ← Bool.not_eq_true, rangesOk_iff]
  push Not
  rfl

theorem submitCheck_of_decode_ok (h : decode c = .ok i) :
    submitCheck p c = if i.check p = .ok then .ok i else .error (i.check p) := by
  simp only [submitCheck, h]
  rcases check_cases i p with hc | hc | hc <;> simp [hc]

theorem submitCheck_eq_ok_iff : submitCheck p c = .ok i ↔ decode c = .ok i ∧ i.check p = .ok :=
  ⟨submitCheck_ok, fun ⟨hd, hc⟩ => by rw [submitCheck_of_decode_ok hd, if_pos hc]⟩

/-- A rejection is the decoder's, or else that of check 3 or 4 on the decoded command. -/
theorem submitCheck_eq_error_iff :
    submitCheck p c = .error code
      ↔ decode c = .error code ∨ ∃ i, decode c = .ok i ∧ i.check p = code ∧ code ≠ .ok := by
  cases hd : decode c with
  | error code' => simp [submitCheck_of_decode_error hd]
  | ok i =>
    rw [submitCheck_of_decode_ok hd]
    by_cases hc : i.check p = .ok
    · simpa [hc] using Eq.symm
    · have hne : i.check p = code → code ≠ .ok := fun h => h ▸ hc
      simpa [hc] using hne

/-- Checks 3 and 4 never answer ERR_OPC. -/
theorem submitCheck_eq_opc_iff : submitCheck p c = .error .opc ↔ decode c = .error .opc := by
  rw [submitCheck_eq_error_iff, or_iff_left]
  rintro ⟨i, -, hc, -⟩
  rcases check_cases i p with h | h | h <;> cases hc.symm.trans h

/-- The decoder never answers a code of checks 3 and 4. -/
theorem submitCheck_eq_error_iff_check (hcode : code = .len ∨ code = .range) :
    submitCheck p c = .error code ↔ ∃ i, decode c = .ok i ∧ i.check p = code := by
  rw [submitCheck_eq_error_iff, decode_eq_error_iff]
  rcases hcode with rfl | rfl <;> simp

/-! ### Submission (R84, R87) -/

theorem submit_of_error (he : s.engine = .idle) (h : submitCheck s.params s.cmd = .error code) :
    s.submit = { s with err := code } := by
  rw [State.submit, h]
  exact reject_of_idle he code

theorem submit_of_ok (h : submitCheck s.params s.cmd = .ok i) : s.submit = s.accept i := by
  rw [State.submit, h]

/-! ### Completion (R88, R90) -/

/-- Every command answers a next state, completed or rejected. -/
theorem exec_answers_next (i : Instr) (s : State) : ∃ t, exec i s = .next t := by
  obtain ⟨f, hf⟩ := exec_eq_runCommand s i
  exact ⟨_, hf.trans (runCommand_eq i s f)⟩

/-- R88: a command that passes checks 3 and 4 completes. -/
theorem exec_completes (h : i.check s.params = .ok) : ∃ t, exec i s = .next t ∧ Completed t := by
  obtain ⟨t, ht⟩ := exec_answers_next i s
  have hf := exec_frame ht
  exact ⟨t, ht, hf.engine, hf.err.trans h⟩

theorem NoReset.head_ne (h : NoReset s) (rest : List HostAction) : s.host ≠ .reset :: rest := by
  intro hh
  exact h (hh ▸ List.mem_cons_self)

theorem NoReset.busyStep (h : NoReset s) : NoReset s.busyStep := by
  obtain ⟨host, ready, rdata, -, hsub, hstep⟩ := busyStep_frame s
  rw [hstep]
  exact fun hmem => h (hsub _ hmem)

theorem busyStep_cyclesLeft (s : State) : s.busyStep.cyclesLeft = s.cyclesLeft - 1 := by
  obtain ⟨host, ready, rdata, -, -, hstep⟩ := busyStep_frame s
  rw [hstep]

/-- R88: the last cycle of a running command, in states of the invariant. -/
theorem State.Inv.step_completes (hs : s.Inv) (he : s.engine = .busy) (hc : s.cyclesLeft = 0) (hr : NoReset s) :
    ∃ t, step s = .next t ∧ Completed t := by
  obtain ⟨i, hi, hcheck⟩ := hs.latch_ok he
  rw [step_complete he hc hr.head_ne hi]
  exact exec_completes hcheck

end Sys2Proof.Machine
end

section
/-! The checks and submission family's statements. -/

namespace Sys2Proof.Machine

/-- Settles O35: with a legal N, an operand that leaves OM is what check 4 rejects, and nothing else is checked. -/
theorem operandRangeCheck : Obligations.OperandRangeCheck := by
  intro i s he hlen
  refine ⟨fun r hr hout => ?_, fun hfit => exec_completes (check_ok_iff.2 ⟨hlen, hfit⟩)⟩
  have hrange : i.check s.params = .range := check_eq_range_iff.2 ⟨hlen, r, hr, hout⟩
  rw [exec_of_check_ne_ok he (by simp [hrange]), hrange]

/-- Settles O36: the decoder makes checks 1 and 2, and checks 3 and 4 see only what it decodes. -/
theorem checksInOrder : Obligations.ChecksInOrder := by
  intro p c
  refine ⟨?_, ?_, ?_, ?_, fun i => ?_⟩
  · rw [submitCheck_eq_opc_iff, decode_eq_error_iff]
    simp
  · rw [submitCheck_eq_field_iff, decode_eq_error_iff]
    simp
  · simp only [submitCheck_eq_error_iff_check (.inl rfl), check_eq_len_iff, exists_and_left]
  · simp only [submitCheck_eq_error_iff_check (.inr rfl), check_eq_range_iff, exists_and_left]
  · rw [submitCheck_eq_ok_iff, Instr.wf_iff_check]

/-- Settles O41, by induction on the cycles left: a cycle keeps the invariant, BUSY and the absence of a reset. -/
theorem acceptedCommandCompletes : Obligations.AcceptedCommandCompletes := by
  intro s hs he hr
  induction hk : s.cyclesLeft generalizing s with
  | zero =>
    rw [Nat.zero_add, runSteps_one]
    exact hs.step_completes he hk hr
  | succ k ih =>
    obtain ⟨hengine, -⟩ := busyStep_registers s
    rw [runSteps_succ _ (step_busy he (by omega) hr.head_ne)]
    exact ih _ hs.busyStep (hengine.trans he) hr.busyStep (by rw [busyStep_cyclesLeft, hk, Nat.add_sub_cancel])

/-- Settles O42: three kinds of step answer by definition, and a completion answers as its command does. -/
theorem everyStepAnswersNext : Obligations.EveryStepAnswersNext := by
  intro s
  unfold step
  split
  case h_1 | h_2 | h_3 => exact ⟨_, rfl⟩
  case h_4 =>
    split
    · exact exec_answers_next _ _
    · exact ⟨_, rfl⟩

/-- Settles O37: the write submits, and the submission of an idle engine is rejected. -/
theorem rejectionChangesErrOnly : Obligations.RejectionChangesErrOnly := by
  intro s v rest code hp he hh hc
  rw [step_write_cmd3 hp he hh]
  exact congrArg _ (submit_of_error he hc)

/-- Settles O38: the write submits, and the counter takes the latency that acceptance gives it. -/
theorem acceptanceLatchesCommand : Obligations.AcceptanceLatchesCommand := by
  intro s v rest i hp he hh hc
  rw [step_write_cmd3 hp he hh]
  exact ⟨_, congrArg _ (submit_of_ok hc)⟩

end Sys2Proof.Machine
end

section
/-! Lemmas of the reset and hazards family: 70_reset_and_hazards.md R96, R97, R108. What a reset leaves, and that a
command's result is a function of its source words. -/

namespace Sys2Proof.Machine

variable {s t u v : State} {i : Instr} {r : OmRange}

/-! ### A reset (R96, R97) -/

/-- R27: the values a reset gives to the registers, whatever the state. -/
theorem resetStep_registers (s : State) :
    s.resetStep.engine = .idle ∧ s.resetStep.carry = false ∧ s.resetStep.ge = false ∧ s.resetStep.err = .ok
      ∧ s.resetStep.cmd0 = 0 ∧ s.resetStep.cmd1 = 0 ∧ s.resetStep.cmd2 = 0 ∧ s.resetStep.cmd3 = 0
      ∧ s.resetStep.hReady = false := ⟨rfl, rfl, rfl, rfl, rfl, rfl, rfl, rfl, rfl⟩

theorem resetStep_om (s : State) : s.resetStep.om = s.abortWrites.om := rfl

theorem resetStep_host {rest : List HostAction} (hh : s.host = .reset :: rest) : s.resetStep.host = rest :=
  congrArg List.tail hh

theorem resetStep_params (s : State) : s.resetStep.params = s.params := by
  have hparams : s.resetStep.params = s.abortWrites.params := rfl
  rcases abortWrites_cases s with hsame | ⟨-, r, -, habort⟩
  · rw [hparams, hsame]
  · rw [hparams, habort]

/-- An idle engine has no command to abort. -/
theorem abortWrites_of_idle (he : s.engine = .idle) : s.abortWrites = s :=
  (abortWrites_cases s).resolve_right fun ⟨hb, _⟩ => nomatch he.symm.trans hb

/-- R97: what a BUSY engine's abort stores in the destination of the latched command. -/
theorem abortWrites_om_of_busy (hb : s.engine = .busy) (hr : s.latchedDst = some r) :
    s.abortWrites.om = s.om.setWords r.base ((List.range r.len).map fun k => Config.freeWord (s.draws + k)) := by
  simp [State.abortWrites, hb, hr]

theorem resetStep_omWord_aborted (hb : s.engine = .busy) (hr : s.latchedDst = some r) {k : Nat} (hk : k < r.len) :
    s.resetStep.omWord (r.base + k) = Config.freeWord (s.draws + k) := by
  rw [State.omWord_def, resetStep_om, abortWrites_om_of_busy hb hr,
    Memory.word_setWords_inside _ _ _ _ (by simpa using hk), List.getElem_map, List.getElem_range]

/-! ### What a command reads (R36, R108) -/

/-- The two states hold the same words in the source operands of the command. -/
def SourcesAgree (i : Instr) (s u : State) : Prop :=
  ∀ r ∈ i.sources, ∀ a, r.covers a → s.omWord a = u.omWord a

theorem SourcesAgree.omWords_eq (h : SourcesAgree i s u) (hr : r ∈ i.sources) :
    s.omWords r.base r.len = u.omWords r.base r.len :=
  Memory.words_congr fun a hlo hhi => h r hr a ⟨hlo, hhi⟩

theorem SourcesAgree.omWords_srcA (h : SourcesAgree i s u) :
    s.omWords i.srcARange.base i.srcARange.len = u.omWords i.srcARange.base i.srcARange.len :=
  h.omWords_eq List.mem_cons_self

theorem SourcesAgree.omWords_srcB (h : SourcesAgree i s u) (hr : i.srcBRange = some r) :
    s.omWords r.base r.len = u.omWords r.base r.len :=
  h.omWords_eq (by simp [Instr.sources, hr])

theorem memRead_congr {b n : Nat} (h : s.omWords b n = u.omWords b n) : s.memRead b n = u.memRead b n :=
  congrArg wordsVal h

theorem omWord_congr {a : Nat} (h : s.omWords a 1 = u.omWords a 1) : s.omWord a = u.omWord a := by
  rw [omWords_one, omWords_one] at h
  exact List.head_eq_of_cons_eq h

/-- R77: INIT forgets what an earlier exponentiation left in the controller. -/
theorem expwCtrl_acc_eq {g : Nat} (hg : g < 2 ^ 192) (e : Word) (c c' : Controller) :
    (expwCtrl g e c).acc.toNat = (expwCtrl g e c').acc.toNat := by
  obtain ⟨-, hcomp⟩ := expwCtrl_computed g e c
  obtain ⟨-, hcomp'⟩ := expwCtrl_computed g e c'
  rw [hcomp.acc hg, hcomp'.acc hg]

theorem expmpCtrl_acc_eq {g : Nat} (hg : g < 2 ^ 192) (e : List Word) (c c' : Controller) :
    (expmpCtrl g e c).acc.toNat = (expmpCtrl g e c').acc.toNat := by
  obtain ⟨-, hcomp⟩ := expmpCtrl_computed g e c
  obtain ⟨-, hcomp'⟩ := expmpCtrl_computed g e c'
  rw [hcomp.acc hg, hcomp'.acc hg]

/-! ### What a command leaves (R108) -/

/-- The words of an operand right after a `MemWrite` of it are those of the value written. -/
theorem omWord_memWrite_congr {b n a : Nat} (s u : State) (x : Nat) (ha : b ≤ a ∧ a < b + n) :
    (s.memWrite b n x).omWord a = (u.memWrite b n x).omWord a := by
  obtain ⟨hlo, hhi⟩ := ha
  obtain ⟨k, rfl⟩ := Nat.exists_eq_add_of_le hlo
  have hk : k < (wordsOf n x).length := by rw [wordsOf_length]; omega
  exact (Memory.word_setWords_inside _ s.om b k hk).trans (Memory.word_setWords_inside _ u.om b k hk).symm

/-- Two states show the same result of the command: its destination words, and the flag that it writes. -/
structure SameResult (i : Instr) (t v : State) : Prop where
  word : ∀ r a, i.dstRange = some r → r.covers a → t.omWord a = v.omWord a
  carry : i.opcode ∈ [.addw, .subw, .addmp, .submp] → t.carry = v.carry
  ge : i.opcode = .cmpmp → t.ge = v.ge

/-- Commands that write the same value to the same destination, whatever else they change. -/
theorem SameResult.store {b n x x' : Nat} (hr : i.dstRange = some ⟨b, n⟩) (hop : i.opcode ≠ .cmpmp) (hx : x = x')
    (k k' : Controller) {c c' : Bool} (hc : i.opcode ∈ [.addw, .subw, .addmp, .submp] → c = c') :
    SameResult i (((s.withCtrl k).memWrite b n x).withCarry c).complete
      (((u.withCtrl k').memWrite b n x').withCarry c').complete := by
  refine ⟨fun r a hr' ha => ?_, hc, fun h => absurd h hop⟩
  obtain rfl : ⟨b, n⟩ = r := Option.some.inj (hr.symm.trans hr')
  subst hx
  exact omWord_memWrite_congr s u x ha

theorem SameResult.storeCarry {b n x x' : Nat} (hr : i.dstRange = some ⟨b, n⟩) (hop : i.opcode ≠ .cmpmp)
    (hx : x = x') {c c' : Bool} (hc : c = c') :
    SameResult i ((s.memWrite b n x).withCarry c).complete ((u.memWrite b n x').withCarry c').complete :=
  .store hr hop hx s.ctrl u.ctrl fun _ => hc

theorem SameResult.storeCtrl {b n x x' : Nat} (hr : i.dstRange = some ⟨b, n⟩)
    (hop : i.opcode ∉ [.addw, .subw, .addmp, .submp, .cmpmp]) (hx : x = x') (k k' : Controller) :
    SameResult i ((s.withCtrl k).memWrite b n x).complete ((u.withCtrl k').memWrite b n x').complete :=
  .store (c := s.carry) (c' := u.carry) hr (fun h => hop (by simp [h])) hx k k' fun h =>
    (hop (List.mem_append_left [Opcode.cmpmp] h)).elim

theorem SameResult.storeOnly {b n x x' : Nat} (hr : i.dstRange = some ⟨b, n⟩)
    (hop : i.opcode ∉ [.addw, .subw, .addmp, .submp, .cmpmp]) (hx : x = x') :
    SameResult i (s.memWrite b n x).complete (u.memWrite b n x').complete :=
  .storeCtrl hr hop hx s.ctrl u.ctrl

theorem SameResult.compare {a b : OmAddr} {n : WordLen} {x x' : Bool} (hx : x = x') :
    SameResult (.cmpmp a b n) (s.withGe x).complete (u.withGe x').complete :=
  ⟨nofun, nofun, fun _ => hx⟩

/-- A command that passes its checks in both states has the results of its effect. -/
theorem runCommand_sameResult {f : State → State} (hs : i.check s.params = .ok) (hu : i.check u.params = .ok)
    (ht : runCommand i s f = .next t) (hv : runCommand i u f = .next v)
    (h : SameResult i (f s).complete (f u).complete) : SameResult i t v := by
  rw [runCommand_ok hs] at ht
  rw [runCommand_ok hu] at hv
  injection ht with ht
  injection hv with hv
  exact ht ▸ hv ▸ h

/-- R108, one command at a time: each effect reads its sources, and no flag, register or other word of OM. -/
theorem exec_sameResult (hs : i.check s.params = .ok) (hu : i.check u.params = .ok) (h : SourcesAgree i s u)
    (ht : exec i s = .next t) (hv : exec i u = .next v) : SameResult i t v := by
  cases i with
  | addw d a b cin =>
    have ha : s.omWord a.toNat = u.omWord a.toNat := omWord_congr h.omWords_srcA
    have hb : s.omWord b.toNat = u.omWord b.toNat := omWord_congr (h.omWords_srcB rfl)
    rw [exec_addw] at ht hv
    exact runCommand_sameResult hs hu ht hv (.storeCarry rfl (by simp [Instr.opcode]) (by rw [ha, hb]) (by rw [ha, hb]))
  | subw d a b cin =>
    have ha : s.omWord a.toNat = u.omWord a.toNat := omWord_congr h.omWords_srcA
    have hb : s.omWord b.toNat = u.omWord b.toNat := omWord_congr (h.omWords_srcB rfl)
    rw [exec_subw] at ht hv
    exact runCommand_sameResult hs hu ht hv (.storeCarry rfl (by simp [Instr.opcode]) (by rw [ha, hb]) (by rw [ha, hb]))
  | addmp d a b n =>
    have ha : s.memRead a.toNat n.toNat = u.memRead a.toNat n.toNat := memRead_congr h.omWords_srcA
    have hb : s.memRead b.toNat n.toNat = u.memRead b.toNat n.toNat := memRead_congr (h.omWords_srcB rfl)
    rw [exec_addmp] at ht hv
    exact runCommand_sameResult hs hu ht hv (.storeCarry rfl (by simp [Instr.opcode]) (by rw [ha, hb]) (by rw [ha, hb]))
  | submp d a b n =>
    have ha : s.memRead a.toNat n.toNat = u.memRead a.toNat n.toNat := memRead_congr h.omWords_srcA
    have hb : s.memRead b.toNat n.toNat = u.memRead b.toNat n.toNat := memRead_congr (h.omWords_srcB rfl)
    rw [exec_submp] at ht hv
    exact runCommand_sameResult hs hu ht hv (.storeCarry rfl (by simp [Instr.opcode]) (by rw [ha, hb]) (by rw [ha, hb]))
  | mulmp d a b n =>
    have ha : s.memRead a.toNat n.toNat = u.memRead a.toNat n.toNat := memRead_congr h.omWords_srcA
    have hb : s.memRead b.toNat n.toNat = u.memRead b.toNat n.toNat := memRead_congr (h.omWords_srcB rfl)
    rw [exec_mulmp] at ht hv
    exact runCommand_sameResult hs hu ht hv (.storeOnly rfl (by simp [Instr.opcode]) (by rw [ha, hb]))
  | cmpmp a b n =>
    have ha : s.omWords a.toNat n.toNat = u.omWords a.toNat n.toNat := h.omWords_srcA
    have hb : s.omWords b.toNat n.toNat = u.omWords b.toNat n.toNat := h.omWords_srcB rfl
    rw [exec_cmpmp] at ht hv
    exact runCommand_sameResult hs hu ht hv (.compare (by rw [ha, hb]))
  | red192 d a =>
    have ha : s.memRead a.toNat 24 = u.memRead a.toNat 24 := memRead_congr h.omWords_srcA
    rw [exec_red192] at ht hv
    exact runCommand_sameResult hs hu ht hv (.storeOnly rfl (by simp [Instr.opcode]) (by rw [ha]))
  | mulp192 d a b =>
    have ha : s.memRead a.toNat 12 = u.memRead a.toNat 12 := memRead_congr h.omWords_srcA
    have hb : s.memRead b.toNat 12 = u.memRead b.toNat 12 := memRead_congr (h.omWords_srcB rfl)
    rw [exec_mulp192] at ht hv
    exact runCommand_sameResult hs hu ht hv (.storeOnly rfl (by simp [Instr.opcode]) (by rw [ha, hb]))
  | expw d g e =>
    have hg : s.memRead g.toNat 12 = u.memRead g.toNat 12 := memRead_congr h.omWords_srcA
    have he : s.omWord e.toNat = u.omWord e.toNat := omWord_congr (h.omWords_srcB rfl)
    rw [exec_expw] at ht hv
    refine runCommand_sameResult hs hu ht hv (.storeCtrl rfl (by simp [Instr.opcode]) ?_ _ _)
    rw [hg, he]
    exact expwCtrl_acc_eq (memRead_lt u _ 12) _ _ _
  | expmp d g e n =>
    have hg : s.memRead g.toNat 12 = u.memRead g.toNat 12 := memRead_congr h.omWords_srcA
    have he : s.omWords e.toNat n.toNat = u.omWords e.toNat n.toNat := h.omWords_srcB rfl
    rw [exec_expmp] at ht hv
    refine runCommand_sameResult hs hu ht hv (.storeCtrl rfl (by simp [Instr.opcode]) ?_ _ _)
    rw [hg, he]
    exact expmpCtrl_acc_eq (memRead_lt u _ 12) _ _ _

end Sys2Proof.Machine
end

section
/-! The reset and hazards family's statements. -/

namespace Sys2Proof.Machine

/-- Settles O48: a well-formed command passes its checks in both states, and its effect is the same function of the
same source words. -/
theorem resultDependsOnSourcesOnly : Obligations.ResultDependsOnSourcesOnly := by
  intro i s u t v hp hwf hsrc ht hv
  have hs : i.check s.params = .ok := (Instr.wf_iff_check _ _).1 hwf
  obtain ⟨hword, hcarry, hge⟩ := exec_sameResult hs (hp ▸ hs) hsrc ht hv
  exact ⟨hword, hcarry, hge⟩

/-- Settles O59: a word outside the destination of the latched command is not the abort's, and the abort stores a free
word in each word inside. -/
theorem resetAbortsCommand : Obligations.ResetAbortsCommand := by
  intro s rest i hh hb hi
  obtain ⟨hengine, hcarry, hge, herr, -⟩ := resetStep_registers s
  refine ⟨_, step_reset hh, hengine, hcarry, hge, herr, fun a hout => ?_, fun r k hr hk => ?_⟩
  · refine (resetStep_omWord_eq_or_aborted s a).resolve_right ?_
    rintro ⟨-, j, r, hj, hr, ha⟩
    obtain rfl : i = j := Except.ok.inj (hi.symm.trans hj)
    exact hout r hr ha
  · exact resetStep_omWord_aborted hb ((latchedDst_eq hi).trans hr) hk

/-- Settles O58: the registers take their values of R27, and an idle engine aborts nothing. -/
theorem resetTakesResetValues : Obligations.ResetTakesResetValues := by
  intro s rest hh
  obtain ⟨hengine, hcarry, hge, herr, h0, h1, h2, h3, hready⟩ := resetStep_registers s
  refine ⟨_, step_reset hh, hengine, hcarry, hge, herr, h0, h1, h2, h3, hready, resetStep_host hh,
    resetStep_params s, fun he => ?_⟩
  rw [resetStep_om, abortWrites_of_idle he]

end Sys2Proof.Machine
end
